-- ==== Sys2Proof/Word.lean ====
section
/-! DEFINITION. The byte and the names of the four general registers. Spec: 10_state R10, R13; 00_scope R5, R8. -/

namespace Sys2Proof

/-- One unsigned 8-bit value, 0 to 255 (10_state R10): a register's content, a memory byte, an address. -/
abbrev Byte := BitVec 8

/-- The general registers R0 to R3 (10_state R13). None is hard-wired and none has an alias. -/
inductive Reg where
  | r0
  | r1
  | r2
  | r3
  deriving DecidableEq, Repr

end Sys2Proof
end

