-- ==== Sys2Proof/Syntax.lean ====
section
/-! DEFINITION. The instructions: one constructor per row of spec/opcode_table.json, in the table's order
(30_encoding R45, R47). Operands are those of the row: `ra` is bits 3..2, `rb` bits 1..0, `mask` bits 3..0 of the
instruction byte; `n` is the operand byte that follows it (R49). Ignored bits (R52) are no operand. -/

namespace Sys2Proof

/-- One instruction of the opcode map (30_encoding R47). -/
inductive Instr where
  /-- ADD Ra,Rb: 42_alu_class R86. -/
  | add (ra rb : Reg)
  /-- SHR Ra,Rb: 42_alu_class R87. -/
  | shr (ra rb : Reg)
  /-- SHL Ra,Rb: 42_alu_class R88. -/
  | shl (ra rb : Reg)
  /-- NOT Ra,Rb: 42_alu_class R89. -/
  | not (ra rb : Reg)
  /-- AND Ra,Rb: 42_alu_class R90. -/
  | and (ra rb : Reg)
  /-- OR Ra,Rb: 42_alu_class R91. -/
  | or (ra rb : Reg)
  /-- XOR Ra,Rb: 42_alu_class R92. -/
  | xor (ra rb : Reg)
  /-- COMP Ra,Rb: 42_alu_class R93. -/
  | comp (ra rb : Reg)
  /-- LOAD Ra,Rb, Ra the address register: 43_load_store_data R100. -/
  | load (ra rb : Reg)
  /-- STORE Ra,Rb, Ra the address register and Rb the data register: 43_load_store_data R101. -/
  | store (ra rb : Reg)
  /-- DATA Ra,n: 43_load_store_data R102. -/
  | data (ra : Reg) (n : Byte)
  /-- JMPR Ra: 44_jumps R110, R111. -/
  | jmpr (ra : Reg)
  /-- JUMP n: 44_jumps R112. -/
  | jump (n : Byte)
  /-- JCAEZ mask,n: 44_jumps R113. Mask bit 3 is C, bit 2 A, bit 1 E, bit 0 Z (30_encoding R50). -/
  | jcaez (mask : BitVec 4) (n : Byte)
  /-- CLF: 45_clf R120. -/
  | clf
  /-- The sixteen illegal bytes 0x70 to 0x7F: 41_instruction_cycle R79, 30_encoding R51. -/
  | illegal
  deriving DecidableEq, Repr

end Sys2Proof
end

