-- ==== Sys2Proof/Decode.lean ====
section
/-! DEFINITION. The decoder, total on any bytes, and the encoder, both from the opcode map of 30_encoding (R45 to R52).
After them the two conveniences of the assembler's byte contract (R56, R57) that stand for bytes, and the host's reading
of a row of opcode_table.json. -/

namespace Sys2Proof

/-! ## Register numbers -/

/-- The 2-bit number of a register (30_encoding R46: "select R0..R3 directly"). -/
def Reg.num : Reg → BitVec 2
  | .r0 => 0
  | .r1 => 1
  | .r2 => 2
  | .r3 => 3

/-- The register of a 2-bit number. -/
def Reg.ofNum (n : BitVec 2) : Reg :=
  match n.getLsbD 1, n.getLsbD 0 with
  | false, false => .r0
  | false, true => .r1
  | true, false => .r2
  | true, true => .r3

/-! ## The fields of the instruction byte (30_encoding R46) -/

/-- `cls = IR[7]`: true for the ALU class. -/
def clsField (ir : Byte) : Bool := ir.getLsbD 7

/-- `IR[6:4]`: the ALU opcode when `cls` is 1, the instruction code when it is 0. -/
def codeField (ir : Byte) : BitVec 3 := ir.extractLsb' 4 3

/-- `ra = IR[3:2]`. -/
def raField (ir : Byte) : Reg := Reg.ofNum (ir.extractLsb' 2 2)

/-- `rb = IR[1:0]`. -/
def rbField (ir : Byte) : Reg := Reg.ofNum (ir.extractLsb' 0 2)

/-- `mask = IR[3:0]`, JCAEZ only. -/
def maskField (ir : Byte) : BitVec 4 := ir.extractLsb' 0 4

/-- Whether an operand byte follows: bit 7 clear and bits 6..4 one of 2, 4, 5 (30_encoding R48). -/
def hasOperandByte (ir : Byte) : Bool :=
  !clsField ir && (codeField ir == 2 || codeField ir == 4 || codeField ir == 5)

/-- Whether the byte is one of 0x70 to 0x7F (30_encoding R51). -/
def illegalByte (ir : Byte) : Bool :=
  !clsField ir && codeField ir == 7

/-- The outputs of the decoder block (00_scope R7), a pure function of IR. -/
structure DecoderOut where
  aluClass : Bool
  code : BitVec 3
  ra : Reg
  rb : Reg
  mask : BitVec 4
  hasOperand : Bool
  illegal : Bool
  deriving DecidableEq, Repr

/-- The decoder block of 00_scope R7. -/
def decoder (ir : Byte) : DecoderOut :=
  { aluClass := clsField ir
    code := codeField ir
    ra := raField ir
    rb := rbField ir
    mask := maskField ir
    hasOperand := hasOperandByte ir
    illegal := illegalByte ir }

/-! ## The opcode map (30_encoding R47) -/

/-- The instruction of an instruction byte and the byte after it: R47's sixteen rows, each value of bits 7..4 in exactly
one. The operand byte is used by the two-byte rows alone; ignored bits are dropped (R52; log 9). -/
def instrOf (ir operand : Byte) : Instr :=
  let d := decoder ir
  match d.aluClass, d.code.getLsbD 2, d.code.getLsbD 1, d.code.getLsbD 0 with
  | false, false, false, false => .load d.ra d.rb
  | false, false, false, true => .store d.ra d.rb
  | false, false, true, false => .data d.ra operand
  | false, false, true, true => .jmpr d.ra
  | false, true, false, false => .jump operand
  | false, true, false, true => .jcaez d.mask operand
  | false, true, true, false => .clf
  | false, true, true, true => .illegal
  | true, false, false, false => .add d.ra d.rb
  | true, false, false, true => .shr d.ra d.rb
  | true, false, true, false => .shl d.ra d.rb
  | true, false, true, true => .not d.ra d.rb
  | true, true, false, false => .and d.ra d.rb
  | true, true, false, true => .or d.ra d.rb
  | true, true, true, false => .xor d.ra d.rb
  | true, true, true, true => .comp d.ra d.rb

/-- Why a list of bytes is no instruction: only bytes can be missing, since every value of the instruction byte is in
some row (30_encoding R47). -/
inductive DecodeError where
  /-- The list is empty. -/
  | noInstructionByte
  /-- The instruction byte calls for an operand byte and the list ends after it. -/
  | noOperandByte
  deriving DecidableEq, Repr

/-- The instruction at the head of a list of bytes and the bytes after it, the instruction byte first (20_memory R34). -/
def decode : List Byte → Except DecodeError (Instr × List Byte)
  | [] => .error .noInstructionByte
  | ir :: rest =>
    if hasOperandByte ir then
      match rest with
      | [] => .error .noOperandByte
      | n :: rest' => .ok (instrOf ir n, rest')
    else .ok (instrOf ir 0, rest)

/-! ## The encoder (30_encoding R45, R56) -/

/-- The instruction byte whose bits 7..4 are `row` and whose register fields are `ra` and `rb`. -/
def byteOfRegs (row : BitVec 4) (ra rb : BitVec 2) : Byte := row ++ ra ++ rb

/-- The instruction byte whose bits 7..4 are `row` and bits 3..0 `low`. -/
def byteOfLow (row low : BitVec 4) : Byte := row ++ low

/-- The bytes of an instruction, lowest address first. Ignored bits are written as 0 (30_encoding R52, R56; log 9); the
illegal row's representative is 0x70. -/
def encode : Instr → List Byte
  | .add ra rb => [byteOfRegs 0b1000 ra.num rb.num]
  | .shr ra rb => [byteOfRegs 0b1001 ra.num rb.num]
  | .shl ra rb => [byteOfRegs 0b1010 ra.num rb.num]
  | .not ra rb => [byteOfRegs 0b1011 ra.num rb.num]
  | .and ra rb => [byteOfRegs 0b1100 ra.num rb.num]
  | .or ra rb => [byteOfRegs 0b1101 ra.num rb.num]
  | .xor ra rb => [byteOfRegs 0b1110 ra.num rb.num]
  | .comp ra rb => [byteOfRegs 0b1111 ra.num rb.num]
  | .load ra rb => [byteOfRegs 0b0000 ra.num rb.num]
  | .store ra rb => [byteOfRegs 0b0001 ra.num rb.num]
  | .data ra n => [byteOfRegs 0b0010 ra.num 0, n]
  | .jmpr ra => [byteOfRegs 0b0011 ra.num 0]
  | .jump n => [byteOfLow 0b0100 0, n]
  | .jcaez mask n => [byteOfLow 0b0101 mask, n]
  | .clf => [byteOfLow 0b0110 0]
  | .illegal => [byteOfLow 0b0111 0]

/-! ## The assembler's byte contract -/

/-- The mask of `J<flags>`: 8 if C is named, 4 if A, 2 if E, 1 if Z (30_encoding R56). -/
def jumpMask (c a e z : Bool) : BitVec 4 :=
  BitVec.ofBool c ++ BitVec.ofBool a ++ BitVec.ofBool e ++ BitVec.ofBool z

/-- The macro COPY Ra,Rb: XOR Rb,Rb then ADD Ra,Rb (30_encoding R57). -/
def copyMacro (ra rb : Reg) : List Instr := [.xor rb rb, .add ra rb]

/-! ## The opcode table's numbering of bits -/

/-- Byte `k` of an instruction given as a number of `nbits` bits, byte 0 being the instruction byte; bits at and above
`nbits` are 0. -/
def wordByte (nbits w k : Nat) : Byte := BitVec.ofNat 8 (w % 2 ^ nbits / 2 ^ (8 * k))

/-- The instruction the decoder reads from the bytes of a table word. -/
def decodeTableWord (nbits w : Nat) : Option Instr :=
  match decode [wordByte nbits w 0, wordByte nbits w 1] with
  | .ok (i, _) => some i
  | .error _ => none

end Sys2Proof
end

