-- ==== Sys2Proof/Config.lean ====
section
/-! DEFINITION. The sizes of this hardware, which are fixed and no parameters (00_scope R5), and the entry point.
There is no free value: the spec leaves no value open (93_implementation_defined, end of part 1). -/

namespace Sys2Proof.Config

/-- Bytes of the one memory, addressed 0 to 255 (20_memory R30). -/
def memorySize : Nat := 256

/-- The address of the first instruction after reset (70_reset_and_hazards R141). -/
def entryPoint : Byte := 0

/-- The longest image the host may load; a longer one is refused (70_reset_and_hazards R143, decision D15; log 11). -/
def imageLimit : Nat := 256

end Sys2Proof.Config
end

