-- ==== Sys2Proof/Machine/State.lean ====
section
/-! DEFINITION. The complete state of the machine (10_state, the State tuple), its reset, and the reasons a step can stop. -/

namespace Sys2Proof.Machine

/-- The 256 bytes of memory (20_memory R30) as the cells that hold a non-zero byte, addresses strictly rising. An
address that is not listed reads as 0, its reset value: "Memory zero-filled" (10_state R27). -/
abbrev Memory := List Host.Cell

/-- The values of HALT (10_state R24): whether the machine runs, or which fatal fault has stopped it for good. -/
inductive Halt where
  | running
  /-- An illegal byte 0x70 to 0x7F was executed (41_instruction_cycle R79). -/
  | invalidInstruction
  /-- A JMPR whose register field is not 0 was executed (44_jumps R111). -/
  | invalidRegisterSlot
  deriving DecidableEq, Repr

/-- Every state element the spec gives the machine. -/
structure State where
  /-- R0 (10_state R13). -/
  r0 : Byte
  /-- R1 (10_state R13). -/
  r1 : Byte
  /-- R2 (10_state R13). -/
  r2 : Byte
  /-- R3 (10_state R13). -/
  r3 : Byte
  /-- Memory address register (10_state R20). -/
  mar : Byte
  /-- Accumulator, the staging register of ALU results (10_state R21). -/
  acc : Byte
  /-- BUS, which no rule writes (10_state R22). -/
  bus : Byte
  /-- Instruction address register, the program counter (10_state R14). -/
  iar : Byte
  /-- Instruction register (10_state R23). -/
  ir : Byte
  /-- Status register: bit 0 Z, bit 1 E, bit 2 A, bit 3 C, bits 7..4 always 0 (10_state R16). -/
  flag : Byte
  /-- Whether the machine runs (10_state R24). -/
  halt : Halt
  /-- The one memory, code and data (20_memory R30). -/
  mem : Memory
  deriving DecidableEq, Repr

/-- The machine right after reset: "all registers zero, Memory zero-filled", HALT running (10_state R27, 70_reset_and_hazards
R140). -/
def State.reset : State :=
  { r0 := 0
    r1 := 0
    r2 := 0
    r3 := 0
    mar := 0
    acc := 0
    bus := 0
    iar := Config.entryPoint
    ir := 0
    flag := 0
    halt := .running
    mem := [] }

/-- Why a step is impossible. No instruction raises one of these: an instruction that faults TAKES its fault, a next
state with HALT written (60_exceptions R128); these say that a machine halted so has no step (41_instruction_cycle R80;
log 1). -/
inductive Fault where
  /-- Raised by `step` alone, in a state whose HALT is InvalidInstruction. Safe: the spec gives that state no step. -/
  | haltedInvalidInstruction
  /-- Raised by `step` alone, in a state whose HALT is InvalidRegisterSlot. Safe: the spec gives that state no step. -/
  | haltedInvalidRegisterSlot
  deriving DecidableEq, Repr

/-- What the model declines to do. -/
inductive Refusal where
  /-- An instruction without a meaning in `exec`. No arm answers it. Safe. -/
  | notModelled (mnemonic : String)
  /-- Raised by the host's `loadImage` alone, never by a step: the image has more than 256 bytes (70_reset_and_hazards
  R143, decision D15; log 11). Safe: the spec says that a model refuses it. -/
  | imageTooLong (length : Nat)
  deriving DecidableEq, Repr

end Sys2Proof.Machine
end

