-- ==== Sys2Proof/Machine/Alu.lean ====
section
/-! DEFINITION. The combinational ALU as the pure function of 40_alu (R60 to R70). It keeps no state (10_state R25). -/

namespace Sys2Proof.Machine

/-- The eight ALU opcodes 0 to 7, in order (40_alu R61 to R68). There is no ninth, so the error InvalidOpcode cannot be
expressed (R69). -/
inductive AluOp where
  | add
  | shr
  | shl
  | not
  | and
  | or
  | xor
  | comp
  deriving DecidableEq, Repr

/-- The ALU's outputs (40_alu R60). -/
structure AluOut where
  y : Byte
  cout : Bool
  eq : Bool
  gt : Bool
  deriving DecidableEq, Repr

/-- The result `y`, computed exactly on naturals and narrowed at the end (40_alu R61 to R68). -/
def aluResult (a b : Byte) (cin : Bool) : AluOp → Byte
  | .add => BitVec.ofNat 8 (a.toNat + b.toNat + cin.toNat)
  | .shr => BitVec.ofNat 8 (a.toNat / 2 + 128 * cin.toNat)
  | .shl => BitVec.ofNat 8 (a.toNat * 2 % 256 + cin.toNat)
  | .not => BitVec.ofNat 8 (255 - a.toNat)
  | .and => a &&& b
  | .or => a ||| b
  | .xor => a ^^^ b
  | .comp => 0

/-- The carry-out: ADD's boundary is `> 255` (40_alu R61; 90_conflicts C2; log 3); opcodes 3 to 7 give 0 (R70;
90_conflicts C3; log 4). -/
def aluCarryOut (a b : Byte) (cin : Bool) : AluOp → Bool
  | .add => decide (a.toNat + b.toNat + cin.toNat > 255)
  | .shr => a.getLsbD 0
  | .shl => decide (a.toNat * 2 > 255)
  | .not => false
  | .and => false
  | .or => false
  | .xor => false
  | .comp => false

/-- `ALU(a, b, cin, op)`: `eq` and `gt` compare `a` and `b`, unsigned, whatever the opcode (40_alu R60). -/
def alu (a b : Byte) (cin : Bool) (op : AluOp) : AluOut :=
  { y := aluResult a b cin op
    cout := aluCarryOut a b cin op
    eq := decide (a = b)
    gt := decide (a.toNat > b.toNat) }

/-- `inc(v)`: the first component of `ALU(v, 1, 0, 0)` (00_scope R8; 40_alu R72). -/
def inc (v : Byte) : Byte := (alu v 1 false .add).y

end Sys2Proof.Machine
end

