-- ==== Sys2Proof/Machine/Flags.lean ====
section
/-! DEFINITION. FLAG: its bits, its packing, its one reader's test, and the carry-in of an ALU-class instruction.
Spec: 10_state R16, R17; 44_jumps R113; 42_alu_class R85. -/

namespace Sys2Proof.Machine

/-- Z, bit 0 (10_state R16). -/
def flagZ (f : Byte) : Bool := f.getLsbD 0

/-- E, bit 1 (10_state R16). -/
def flagE (f : Byte) : Bool := f.getLsbD 1

/-- A (A-larger), bit 2 (10_state R16). -/
def flagA (f : Byte) : Bool := f.getLsbD 2

/-- C, bit 3 (10_state R16). -/
def flagC (f : Byte) : Bool := f.getLsbD 3

/-- `PackFlags(y, cout, eq, gt)`; the zero bit comes from the ALU result (10_state R17). -/
def packFlags (r : AluOut) : Byte :=
  BitVec.ofNat 8
    ((decide (r.y = 0)).toNat + 2 * r.eq.toNat + 4 * r.gt.toNat + 8 * r.cout.toNat)

/-- The JCAEZ test `FLAG & mask != 0`: some flag the mask selects is 1 (44_jumps R113, 30_encoding R50). -/
def maskSelects (flag : Byte) (mask : BitVec 4) : Bool := (flag &&& mask.setWidth 8) != 0

/-- The carry-in of an ALU-class instruction, given FLAG: always 0, the carry flag is not fed back (42_alu_class R85,
decision D3; log 5). -/
def aluClassCarryIn (_flag : Byte) : Bool := false

end Sys2Proof.Machine
end

