-- ==== Sys2Proof/Machine/Memory.lean ====
section
/-! DEFINITION. The memory's two access primitives (20_memory R32) and its canonical form. Both are total: every address
0 to 255 exists, is readable and is writable (R30). -/

namespace Sys2Proof.Machine

/-- The byte the first cell of that address holds, 0 where none is listed. -/
def Memory.lookup : Memory → Nat → Byte
  | [], _ => 0#8
  | (k, v) :: rest, a => if k = a then v else Memory.lookup rest a

/-- The cells of every other address. -/
def Memory.erase : Memory → Nat → Memory
  | [], _ => []
  | (k, v) :: rest, a => if k = a then Memory.erase rest a else (k, v) :: Memory.erase rest a

/-- A cell put before the first cell of a higher address. -/
def Memory.place : Memory → Nat → Byte → Memory
  | [], a, v => [(a, v)]
  | (k, w) :: rest, a, v =>
    if a < k then (a, v) :: (k, w) :: rest else (k, w) :: Memory.place rest a v

/-- `MemRead(addr, 1)`: the byte at `addr`; nothing changes (20_memory R32). -/
def Memory.read (m : Memory) (addr : Byte) : Byte := Memory.lookup m addr.toNat

/-- `MemWrite(addr, 1, v)`: the byte at `addr` becomes `v` and no other byte changes (20_memory R32). The value 0, which
an unlisted address reads as, is written by listing nothing. -/
def Memory.write (m : Memory) (addr v : Byte) : Memory :=
  if v = 0#8 then Memory.erase m addr.toNat
  else Memory.place (Memory.erase m addr.toNat) addr.toNat v

/-- The canonical form of cells at addresses from `low` on. -/
def Memory.wfFrom : Nat → Memory → Bool
  | _, [] => true
  | low, (k, v) :: rest =>
    decide (low ≤ k) && decide (k < Config.memorySize) && (v != 0#8) && Memory.wfFrom (k + 1) rest

/-- The canonical form: addresses strictly rising and below 256, no cell holding 0. Equal memories are equal data. -/
def Memory.wf (m : Memory) : Bool := Memory.wfFrom 0 m

end Sys2Proof.Machine
end

