-- ==== Sys2Proof/Machine/Ops.lean ====
section
/-! DEFINITION. The named operations over registers and memory, the fetch, and taking a fault. -/

namespace Sys2Proof.Machine

/-! ## The register file (10_state R10, R13; 00_scope R7) -/

/-- `x[r]`, the value of a general register. -/
def State.reg (s : State) : Reg → Byte
  | .r0 => s.r0
  | .r1 => s.r1
  | .r2 => s.r2
  | .r3 => s.r3

/-- `x[r] <- v`. -/
def State.setReg (s : State) (r : Reg) (v : Byte) : State :=
  match r with
  | .r0 => { s with r0 := v }
  | .r1 => { s with r1 := v }
  | .r2 => { s with r2 := v }
  | .r3 => { s with r3 := v }

/-! ## The special registers. BUS has no write: no rule writes it (10_state R22) -/

/-- `MAR <- v`. -/
def State.setMar (s : State) (v : Byte) : State := { s with mar := v }

/-- `ACC <- v`. -/
def State.setAcc (s : State) (v : Byte) : State := { s with acc := v }

/-- `IAR <- v`. -/
def State.setIar (s : State) (v : Byte) : State := { s with iar := v }

/-- `IR <- v`. -/
def State.setIr (s : State) (v : Byte) : State := { s with ir := v }

/-- `FLAG <- v`. -/
def State.setFlag (s : State) (v : Byte) : State := { s with flag := v }

/-- `HALT <- h`. -/
def State.setHalt (s : State) (h : Halt) : State := { s with halt := h }

/-- The memory replaced. -/
def State.setMem (s : State) (m : Memory) : State := { s with mem := m }

/-! ## The memory interface: every access goes through MAR (20_memory R33) -/

/-- The byte at the address in MAR. -/
def State.readMar (s : State) : Byte := s.mem.read s.mar

/-- `Mem[MAR] <- v`. -/
def State.writeMar (s : State) (v : Byte) : State := s.setMem (s.mem.write s.mar v)

/-! ## Taking a fault -/

/-- `raise F`: HALT becomes F and nothing else is written; the fetch stays committed (60_exceptions R128). There is no
handler, no saved register (R127) and no return: only reset leaves a halt (R129). -/
def State.raise (s : State) (f : Halt) : State := s.setHalt f

/-- The fault that a machine with this HALT meets when a step is asked of it: a halted machine has no step
(41_instruction_cycle R80; log 1). -/
def haltFault : Halt → Option Fault
  | .running => none
  | .invalidInstruction => some .haltedInvalidInstruction
  | .invalidRegisterSlot => some .haltedInvalidRegisterSlot

/-! ## The fetch -/

/-- The fetch (41_instruction_cycle R75, R76): stage IAR + 1 in ACC (decision D5; log 10), MAR <- IAR, IR <- Mem[MAR],
IAR <- the staged value. FLAG is not written, although the ALU is used (10_state R18). -/
def fetch (s : State) : State :=
  let staged := inc s.iar
  let s := s.setAcc staged
  let s := s.setMar s.iar
  let s := s.setIr s.readMar
  s.setIar staged

/-- The two bytes a step may take from the instruction stream: the instruction byte at IAR and the byte at the next
address, wrapping from 255 to 0 (20_memory R34). -/
def streamBytes (s : State) : List Byte := [s.mem.read s.iar, s.mem.read (inc s.iar)]

/-- The instruction the next step runs: the decoder's answer on the byte the fetch loads into IR, with the byte at the
following address as its operand byte (41_instruction_cycle R77; log 2). -/
def fetchedInstr (s : State) : Instr := instrOf (s.mem.read s.iar) (s.mem.read (inc s.iar))

/-- The start of DATA and JCAEZ: MAR <- IAR, ACC <- inc(IAR), IAR <- ACC (43_load_store_data R102, 44_jumps R113). The
increment leaves FLAG alone and its carry-in is 0. -/
def State.passOperand (s : State) : State :=
  let s := s.setMar s.iar
  let s := s.setAcc (inc s.iar)
  s.setIar s.acc

/-! ## Placing an instruction for the host -/

/-- An instruction of the opcode table placed where the next step fetches it: its two bytes at IAR and the next address.
HALT becomes running, which the fetch needs (log 12). -/
def placeWord (s : State) (nbits w : Nat) : State :=
  let m := s.mem.write s.iar (wordByte nbits w 0)
  let m := m.write (inc s.iar) (wordByte nbits w 1)
  (s.setMem m).setHalt .running

end Sys2Proof.Machine
end

