-- ==== Sys2Proof/Machine/Operands.lean ====
section
/-! DEFINITION. The operand forms: register-indirect addresses, JMPR's register slot, and the common sequence of the
ALU class with its two register operands. The one other form, the operand byte, is used whole (30_encoding R49). -/

namespace Sys2Proof.Machine

/-- The effective address of LOAD and STORE: the address register, all 8 bits, no offset (43_load_store_data R100, R101). -/
def effectiveAddress (s : State) (ra : Reg) : Byte := s.reg ra

/-- JMPR's register slot, `IR & 0b1100`: the field without a right shift, so 0, 4, 8 or 12 (44_jumps R110). -/
def jmprSlot (ra : Reg) : BitVec 4 := ra.num ++ (0 : BitVec 2)

/-- The general register in a slot: slots 0 to 3 hold R0 to R3 and no other slot exists (44_jumps R110, R111; decision
D4; log 8). -/
def slotRegister (slot : BitVec 4) : Option Reg :=
  if slot.extractLsb' 2 2 = 0 then some (Reg.ofNum (slot.extractLsb' 0 2)) else none

/-- The ALU evaluation of an ALU-class instruction: the register of bits 3..2 on input a, that of bits 1..0 on input b
(42_alu_class R85, R94). -/
def aluClassEval (op : AluOp) (ra rb : Reg) (s : State) : AluOut :=
  alu (s.reg ra) (s.reg rb) (aluClassCarryIn s.flag) op

/-- ACC and FLAG of an ALU-class instruction (42_alu_class R85). Both operands are read before anything is written. -/
def aluStage (op : AluOp) (ra rb : Reg) (s : State) : State :=
  let r := aluClassEval op ra rb s
  (s.setAcc r.y).setFlag (packFlags r)

/-- The common sequence of the seven ALU-class instructions that write a register: stage, then x[rb] <- ACC
(42_alu_class R85). -/
def aluCommit (op : AluOp) (ra rb : Reg) (s : State) : State :=
  let s := aluStage op ra rb s
  s.setReg rb s.acc

end Sys2Proof.Machine
end

