-- ==== Sys2Proof/Machine/AluClass.lean ====
section
/-! DEFINITION. The meanings of the ALU class (42_alu_class R85 to R93). None can fault. -/

namespace Sys2Proof.Machine

/-- ADD Ra,Rb (42_alu_class R86). -/
def execAdd (ra rb : Reg) (s : State) : Host.Outcome State Fault Refusal := .next (aluCommit .add ra rb s)

/-- SHR Ra,Rb (42_alu_class R87). -/
def execShr (ra rb : Reg) (s : State) : Host.Outcome State Fault Refusal := .next (aluCommit .shr ra rb s)

/-- SHL Ra,Rb (42_alu_class R88). -/
def execShl (ra rb : Reg) (s : State) : Host.Outcome State Fault Refusal := .next (aluCommit .shl ra rb s)

/-- NOT Ra,Rb (42_alu_class R89). -/
def execNot (ra rb : Reg) (s : State) : Host.Outcome State Fault Refusal := .next (aluCommit .not ra rb s)

/-- AND Ra,Rb (42_alu_class R90). -/
def execAnd (ra rb : Reg) (s : State) : Host.Outcome State Fault Refusal := .next (aluCommit .and ra rb s)

/-- OR Ra,Rb (42_alu_class R91). -/
def execOr (ra rb : Reg) (s : State) : Host.Outcome State Fault Refusal := .next (aluCommit .or ra rb s)

/-- XOR Ra,Rb (42_alu_class R92). -/
def execXor (ra rb : Reg) (s : State) : Host.Outcome State Fault Refusal := .next (aluCommit .xor ra rb s)

/-- COMP Ra,Rb: ACC and FLAG alone, no general register (42_alu_class R93; 90_conflicts C7). -/
def execComp (ra rb : Reg) (s : State) : Host.Outcome State Fault Refusal := .next (aluStage .comp ra rb s)

end Sys2Proof.Machine
end

