-- ==== Sys2Proof/Machine/Control.lean ====
section
/-! DEFINITION. The meanings of CLF (45_clf R120) and of the illegal row (41_instruction_cycle R79). -/

namespace Sys2Proof.Machine

/-- CLF: FLAG <- 0 (45_clf R120). -/
def execClf (s : State) : Host.Outcome State Fault Refusal := .next (s.setFlag 0)

/-- A byte 0x70 to 0x7F raises InvalidInstruction: HALT is set and nothing else changes after the fetch
(41_instruction_cycle R79, 60_exceptions R128). -/
def execIllegal (s : State) : Host.Outcome State Fault Refusal := .next (s.raise .invalidInstruction)

end Sys2Proof.Machine
end

