-- ==== Sys2Proof/Machine/Jumps.lean ====
section
/-! DEFINITION. The meanings of JMPR, JUMP and JCAEZ (44_jumps R110 to R113). None writes a general register, FLAG or
memory (R114). The operand byte `n` is the byte at the address these put into MAR (log 2). -/

namespace Sys2Proof.Machine

/-- JMPR Ra: IAR <- the register in slot `IR & 0b1100`; a slot that is no general register raises InvalidRegisterSlot
(44_jumps R110, R111; log 8). -/
def execJmpr (ra : Reg) (s : State) : Host.Outcome State Fault Refusal :=
  match slotRegister (jmprSlot ra) with
  | some r => .next (s.setIar (s.reg r))
  | none => .next (s.raise .invalidRegisterSlot)

/-- JUMP n: MAR <- IAR; IAR <- the operand byte (44_jumps R112). -/
def execJump (n : Byte) (s : State) : Host.Outcome State Fault Refusal :=
  .next ((s.setMar s.iar).setIar n)

/-- JCAEZ mask,n: pass the operand byte; if FLAG & mask is not 0, IAR <- that byte (44_jumps R113). -/
def execJcaez (mask : BitVec 4) (n : Byte) (s : State) : Host.Outcome State Fault Refusal :=
  let s := s.passOperand
  .next (if maskSelects s.flag mask then s.setIar n else s)

end Sys2Proof.Machine
end

