-- ==== Sys2Proof/Machine/LoadStore.lean ====
section
/-! DEFINITION. The meanings of LOAD, STORE and DATA (43_load_store_data R100 to R102). None writes FLAG, none can fault. -/

namespace Sys2Proof.Machine

/-- LOAD Ra,Rb: MAR <- x[ra]; x[rb] <- Mem[MAR] (43_load_store_data R100). -/
def execLoad (ra rb : Reg) (s : State) : Host.Outcome State Fault Refusal :=
  let s := s.setMar (effectiveAddress s ra)
  .next (s.setReg rb s.readMar)

/-- STORE Ra,Rb: MAR <- x[ra]; Mem[MAR] <- x[rb] (43_load_store_data R101; 90_conflicts C5). -/
def execStore (ra rb : Reg) (s : State) : Host.Outcome State Fault Refusal :=
  let s := s.setMar (effectiveAddress s ra)
  .next (s.writeMar (s.reg rb))

/-- DATA Ra,n: pass the operand byte, then x[ra] <- that byte (43_load_store_data R102). The byte `n` is Mem[MAR]: the
step hands it over with the decoded instruction (log 2). -/
def execData (ra : Reg) (n : Byte) (s : State) : Host.Outcome State Fault Refusal :=
  .next (s.passOperand.setReg ra n)

end Sys2Proof.Machine
end

