-- ==== Sys2Proof/Machine/Dispatch.lean ====
section
/-! DEFINITION. The dispatch (41_instruction_cycle R75, R77): one arm per constructor of Instr. -/

namespace Sys2Proof.Machine

/-- What an instruction does once its fetch has been committed. -/
def exec (i : Instr) (s : State) : Host.Outcome State Fault Refusal :=
  match i with
  | .add ra rb => Sys2Proof.Machine.execAdd ra rb s
  | .shr ra rb => Sys2Proof.Machine.execShr ra rb s
  | .shl ra rb => Sys2Proof.Machine.execShl ra rb s
  | .not ra rb => Sys2Proof.Machine.execNot ra rb s
  | .and ra rb => Sys2Proof.Machine.execAnd ra rb s
  | .or ra rb => Sys2Proof.Machine.execOr ra rb s
  | .xor ra rb => Sys2Proof.Machine.execXor ra rb s
  | .comp ra rb => Sys2Proof.Machine.execComp ra rb s
  | .load ra rb => Sys2Proof.Machine.execLoad ra rb s
  | .store ra rb => Sys2Proof.Machine.execStore ra rb s
  | .data ra n => Sys2Proof.Machine.execData ra n s
  | .jmpr ra => Sys2Proof.Machine.execJmpr ra s
  | .jump n => Sys2Proof.Machine.execJump n s
  | .jcaez mask n => Sys2Proof.Machine.execJcaez mask n s
  | .clf => Sys2Proof.Machine.execClf s
  | .illegal => Sys2Proof.Machine.execIllegal s

end Sys2Proof.Machine
end

