-- ==== Sys2Proof/Machine/Step.lean ====
section
/-! DEFINITION. One step of the controller (41_instruction_cycle R75), and the host's placing of an instruction. -/

namespace Sys2Proof.Machine

/-- One whole instruction: a halted machine has no step (41_instruction_cycle R80); a running one fetches, decodes and
executes (R75). -/
def step (s : State) : Host.Outcome State Fault Refusal :=
  match haltFault s.halt with
  | some f => .fault f
  | none => exec (fetchedInstr s) (fetch s)

/-- `s` with the instruction of a table word stored where the next step fetches it. -/
def State.withFetchWord (s : State) (nbits w : Nat) : State := placeWord s nbits w

end Sys2Proof.Machine
end

