-- ==== Sys2Proof/WellFormed.lean ====
section
/-! DEFINITION. What the types of Syntax do not already say about an instruction or an image. A register number, a mask
and an operand byte are in range by their types, so the checks left are these three. -/

namespace Sys2Proof

/-- An instruction of the set of fifteen: the illegal row is "not an instruction" (30_encoding R51, opcode_table.json).
The decoder and the machine give the illegal row its meaning all the same. -/
def Instr.wellFormed : Instr → Bool
  | .add _ _ => true
  | .shr _ _ => true
  | .shl _ _ => true
  | .not _ _ => true
  | .and _ _ => true
  | .or _ _ => true
  | .xor _ _ => true
  | .comp _ _ => true
  | .load _ _ => true
  | .store _ _ => true
  | .data _ _ => true
  | .jmpr _ => true
  | .jump _ => true
  | .jcaez _ _ => true
  | .clf => true
  | .illegal => false

/-- A well-formed instruction that some source line of 30_encoding R56 stands for: `J<flags>` names at least one flag,
so a JCAEZ with an empty mask has no spelling (it runs all the same, R52). -/
def Instr.hasSpelling : Instr → Bool
  | .jcaez mask _ => mask != 0
  | i => i.wellFormed

/-- An image the host may load: at most 256 bytes (70_reset_and_hazards R143). -/
def imageWellFormed (image : List Byte) : Bool :=
  decide (image.length ≤ Config.imageLimit)

end Sys2Proof
end

