-- ==== Sys2Proof/Machine/Driver.lean ====
section
/-! DEFINITION. The host, or Execution Driver (70_reset_and_hazards R140 to R150): reset, the loading of an image, the
run loop and its ends. It is outside the core (00_scope R3) and touches the machine only before and after a run (R149). -/

namespace Sys2Proof.Machine

/-! ## The controller's two inputs (00_scope R7) -/

/-- What the host may ask of the controller. -/
inductive Request where
  | reset
  | step
  deriving DecidableEq, Repr

/-- The controller's answer: reset discards all state and is the only way out of a halt (70_reset_and_hazards R140,
60_exceptions R129). -/
def serve (q : Request) (s : State) : Host.Outcome State Fault Refusal :=
  match q with
  | .reset => .next State.reset
  | .step => step s

/-! ## Loading (70_reset_and_hazards R143) -/

/-- The memory after the bytes have been written at consecutive addresses from `a` on. -/
def storeImage (m : Memory) (a : Nat) : List Byte → Memory
  | [] => m
  | b :: rest => storeImage (m.write (BitVec.ofNat 8 a) b) (a + 1) rest

/-- The machine as the host starts it: reset, then the image at address 0. An image of more than 256 bytes is refused
(decision D15; log 11). -/
def loadImage (image : List Byte) : Host.Outcome State Fault Refusal :=
  if imageWellFormed image then .next (State.reset.setMem (storeImage State.reset.mem 0 image))
  else .refused (.imageTooLong image.length)

/-! ## The run loop (70_reset_and_hazards R146) -/

/-- The three ways a run ends (70_reset_and_hazards R147). -/
inductive RunEnd where
  /-- IAR is at or above the target: the normal end. -/
  | targetReached
  /-- The budget of steps is used up below the target: the watchdog, no error. -/
  | budgetExhausted
  /-- The machine is halted by a fault: the run has failed (R148). -/
  | failed
  deriving DecidableEq, Repr

/-- What a run leaves: how it ended, the machine, and the number of steps executed. -/
structure RunResult where
  ending : RunEnd
  state : State
  steps : Nat
  deriving DecidableEq, Repr

/-- The end that the loop's test finds at a step boundary before the budget is looked at. A halt fails the run whatever
IAR is (70_reset_and_hazards R148; log 13). -/
def boundaryEnd (target : Nat) (s : State) : Option RunEnd :=
  if s.halt ≠ .running then some .failed
  else if target ≤ s.iar.toNat then some .targetReached
  else none

/-- The loop with `budget` steps left and `n` steps done. No running machine's step stops (log 13), so the loop's
last two arms are never taken. -/
def runFrom (target : Nat) : Nat → Nat → State → RunResult
  | 0, n, s => { ending := (boundaryEnd target s).getD .budgetExhausted, state := s, steps := n }
  | budget + 1, n, s =>
    match boundaryEnd target s with
    | some e => { ending := e, state := s, steps := n }
    | none =>
      match step s with
      | .next t => runFrom target budget (n + 1) t
      | .fault _ => { ending := .failed, state := s, steps := n }
      | .refused _ => { ending := .failed, state := s, steps := n }

/-- `run(target_address, max_cycles)` (70_reset_and_hazards R146); both are natural numbers of any size (decision D14;
log 11). -/
def driverRun (target maxCycles : Nat) (s : State) : RunResult := runFrom target maxCycles 0 s

/-- `step` applied that many times, stopping where a step stops (70_reset_and_hazards R150). -/
def stepTimes : Nat → State → Host.Outcome State Fault Refusal
  | 0, s => .next s
  | n + 1, s =>
    match step s with
    | .next t => stepTimes n t
    | .fault f => .fault f
    | .refused r => .refused r

/-- The final memory image, which a failed run does not owe (70_reset_and_hazards R146, R148). -/
def finalImage (r : RunResult) : Option Memory :=
  match r.ending with
  | .targetReached => some r.state.mem
  | .budgetExhausted => some r.state.mem
  | .failed => none

end Sys2Proof.Machine
end

