-- ==== Sys2Proof/Safety.lean ====
section
/-! DEFINITION. What counts as a legal state and a safe run, and the words the statements are written in. -/

namespace Sys2Proof.Machine

/-- The invariant of the machine: memory in canonical form (20_memory R30), FLAG's upper four bits 0 (10_state R16), E
and A never both 1 (40_alu R60), BUS 0 (10_state R22). -/
structure State.Inv (s : State) : Prop where
  memoryCanonical : s.mem.wf = true
  flagHighZero : s.flag.extractLsb' 4 4 = 0
  flagNotBothEA : ¬ (flagE s.flag = true ∧ flagA s.flag = true)
  busZero : s.bus = 0

/-- A machine that no fault has stopped: only such a state can be part of a successful run (60_exceptions R128). -/
def State.Safe (s : State) : Prop := s.halt = .running

/-- A run that has not gone wrong (70_reset_and_hazards R148). -/
def RunResult.Safe (r : RunResult) : Prop := r.ending ≠ .failed ∧ r.state.Safe

/-- FLAG's four bits say exactly these four conditions and its upper bits are 0 (10_state R16). -/
def FlagIs (f : Byte) (z e a c : Prop) : Prop :=
  (f.getLsbD 0 = true ↔ z) ∧ (f.getLsbD 1 = true ↔ e) ∧ (f.getLsbD 2 = true ↔ a) ∧
    (f.getLsbD 3 = true ↔ c) ∧ f.toNat < 16

/-- Every byte of memory reads the same in both states. -/
def SameBytes (s t : State) : Prop := ∀ a : Byte, t.mem.read a = s.mem.read a

/-- Every general register reads the same in both states. -/
def SameRegs (s t : State) : Prop := ∀ r : Reg, t.reg r = s.reg r

/-- Every general register but `d` reads the same in both states. -/
def SameRegsBut (d : Reg) (s t : State) : Prop := ∀ r : Reg, r ≠ d → t.reg r = s.reg r

/-- The opcode and the two registers of an ALU-class instruction (42_alu_class R85). -/
def aluClassOf : Instr → Option (AluOp × Reg × Reg)
  | .add ra rb => some (.add, ra, rb)
  | .shr ra rb => some (.shr, ra, rb)
  | .shl ra rb => some (.shl, ra, rb)
  | .not ra rb => some (.not, ra, rb)
  | .and ra rb => some (.and, ra, rb)
  | .or ra rb => some (.or, ra, rb)
  | .xor ra rb => some (.xor, ra, rb)
  | .comp ra rb => some (.comp, ra, rb)
  | .load _ _ => none
  | .store _ _ => none
  | .data _ _ => none
  | .jmpr _ => none
  | .jump _ => none
  | .jcaez _ _ => none
  | .clf => none
  | .illegal => none

/-- FLAG after a step that runs `i` (10_state R18): the packed evaluation after an ALU-class instruction, 0 after CLF,
untouched otherwise. -/
def flagAfter (s : State) (i : Instr) : Byte :=
  match aluClassOf i with
  | some (op, ra, rb) => packFlags (aluClassEval op ra rb s)
  | none => if i = .clf then 0 else s.flag

/-- IAR after a step that runs `i`, by the table of 10_state R15, with p the value of IAR before the step. -/
def iarAfter (s : State) (i : Instr) : Byte :=
  match i with
  | .data _ _ => s.iar + 2
  | .jmpr .r0 => s.reg .r0
  | .jump _ => s.mem.read (s.iar + 1)
  | .jcaez mask _ => if (s.flag &&& mask.setWidth 8) = 0 then s.iar + 2 else s.mem.read (s.iar + 1)
  | _ => s.iar + 1

/-- The opcode map of 30_encoding R47 by the value of bits 7..4: the instruction, and whether it has an operand byte. -/
def opcodeMap (row : Nat) (ra rb : Reg) (mask : BitVec 4) (n : Byte) : Instr × Bool :=
  match row with
  | 0 => (.load ra rb, false)
  | 1 => (.store ra rb, false)
  | 2 => (.data ra n, true)
  | 3 => (.jmpr ra, false)
  | 4 => (.jump n, true)
  | 5 => (.jcaez mask n, true)
  | 6 => (.clf, false)
  | 7 => (.illegal, false)
  | 8 => (.add ra rb, false)
  | 9 => (.shr ra rb, false)
  | 10 => (.shl ra rb, false)
  | 11 => (.not ra rb, false)
  | 12 => (.and ra rb, false)
  | 13 => (.or ra rb, false)
  | 14 => (.xor ra rb, false)
  | _ => (.comp ra rb, false)

/-- An instruction byte with its row's ignored bits written as 0 (30_encoding R52): bits 1..0 of DATA and JMPR, bits 3..0
of JUMP, CLF and the illegal row. -/
def clearIgnored (ir : Byte) : Byte :=
  match ir.toNat / 16 with
  | 2 => ir &&& 0xFC
  | 3 => ir &&& 0xFC
  | 4 => ir &&& 0xF0
  | 6 => ir &&& 0xF0
  | 7 => ir &&& 0xF0
  | _ => ir

end Sys2Proof.Machine
end

