-- ==== Sys2Proof/Certificates/Slice0/Obligations.lean ====
section
/-! DEFINITION. The statements for the provers. Each names the rule or section of spec/ it formalises; where one rests on
a decision that the spec marks as its own, its docstring names the decision and the entry of the assumption log. In every
statement about `exec`, the state is the one after the fetch (41_instruction_cycle R77). -/

open Sys2Proof Sys2Proof.Machine

/-! ## Reset and the state -/

/-- 10_state section 8 (R27): every register and every memory byte is 0 after reset. HALT = Running is the spec's decision
D7 (log 7). -/
def Obligations.ResetLeavesEveryElementZero : Prop :=
  (∀ r : Reg, State.reset.reg r = 0) ∧ State.reset.mar = 0 ∧ State.reset.acc = 0 ∧ State.reset.bus = 0 ∧
    State.reset.iar = 0 ∧ State.reset.ir = 0 ∧ State.reset.flag = 0 ∧ State.reset.Safe ∧
    ∀ a : Byte, State.reset.mem.read a = 0

/-- 70_reset_and_hazards section 1: IAR is 0 after reset, and whatever memory the host has loaded, the first step fetches
Mem[0] and runs it: nothing else runs first. That Mem[1] comes to `exec` with the decoded instruction is log 2 (DEDUCED,
from 20_memory section 3). -/
def Obligations.ExecutionBeginsAtAddressZero : Prop :=
  State.reset.iar = 0 ∧
    ∀ m : Memory, ∃ s, fetch (State.reset.setMem m) = s ∧ s.ir = m.read 0 ∧ s.mar = 0 ∧
      step (State.reset.setMem m) = exec (instrOf (m.read 0) (m.read 1)) s

/-- The invariant holds after reset. -/
def Obligations.ResetMeetsInvariant : Prop := State.reset.Inv

/-- Every step keeps the invariant: memory stays canonical, FLAG's upper bits stay 0, E and A are never both 1, BUS stays 0.
The clause on BUS is the spec's decision D6 (log 6). -/
def Obligations.StepKeepsInvariant : Prop :=
  ∀ s t : State, s.Inv → step s = .next t → t.Inv

/-- 10_state section 1 (R10): a written register reads as written, and no other state element changes with it. -/
def Obligations.RegisterWriteIsIsolated : Prop :=
  ∀ (s : State) (d : Reg) (v : Byte), (s.setReg d v).reg d = v ∧ SameRegsBut d s (s.setReg d v) ∧
    (s.setReg d v).mar = s.mar ∧ (s.setReg d v).acc = s.acc ∧ (s.setReg d v).bus = s.bus ∧
    (s.setReg d v).iar = s.iar ∧ (s.setReg d v).ir = s.ir ∧ (s.setReg d v).flag = s.flag ∧
    (s.setReg d v).halt = s.halt ∧ (s.setReg d v).mem = s.mem

/-! ## Memory -/

/-- 20_memory R32: a write sets its byte and no other, for every address; a write of the value already present changes
nothing (in the canonical form every reachable memory has). -/
def Obligations.MemoryWriteSetsOneByte : Prop :=
  ∀ (m : Memory) (a v : Byte), (m.write a v).read a = v ∧
    (∀ b : Byte, b ≠ a → (m.write a v).read b = m.read b) ∧
    (m.wf = true → m.write a (m.read a) = m)

/-- 20_memory section 1 (R30): a memory is its 256 bytes. Two canonical memories that read alike are equal data. -/
def Obligations.EqualBytesAreEqualMemories : Prop :=
  ∀ m n : Memory, m.wf = true → n.wf = true → (∀ a : Byte, m.read a = n.read a) → m = n

/-- 20_memory section 2 (R33): only STORE changes memory, and only the byte its address register names. -/
def Obligations.OnlyStoreChangesMemory : Prop :=
  ∀ (s t : State) (a : Byte), step s = .next t → t.mem.read a ≠ s.mem.read a →
    ∃ ra rb : Reg, fetchedInstr s = .store ra rb ∧ a = s.reg ra ∧ t.mem.read a = s.reg rb

/-- 20_memory section 8 (R39): the instruction a STORE writes is the one the next fetch from that address runs, the very
next fetch when the address is IAR + 1; the STORE itself runs as it was fetched, even when it overwrites itself. -/
def Obligations.StoreIsSeenByTheNextFetch : Prop :=
  ∀ (s : State) (ra rb : Reg), s.Safe → fetchedInstr s = .store ra rb →
    ∃ t, step s = .next t ∧ t.ir = s.mem.read s.iar ∧ t.mem.read (s.reg ra) = s.reg rb ∧
      (s.reg ra = s.iar + 1 → (fetch t).ir = s.reg rb ∧
        ∃ n : Byte, step t = exec (instrOf (s.reg rb) n) (fetch t))

/-! ## The ALU -/

/-- 40_alu R60: `eq` and `gt` are the unsigned comparison of a and b whatever the opcode and the carry-in; never both 1,
both 0 exactly when a < b. -/
def Obligations.AluComparesWhateverTheOpcode : Prop :=
  ∀ (a b : Byte) (cin : Bool) (op : AluOp),
    ((alu a b cin op).eq = true ↔ a = b) ∧ ((alu a b cin op).gt = true ↔ b.toNat < a.toNat) ∧
    ¬ ((alu a b cin op).eq = true ∧ (alu a b cin op).gt = true) ∧
    (((alu a b cin op).eq = false ∧ (alu a b cin op).gt = false) ↔ a.toNat < b.toNat)

/-- 40_alu section 2, ADD: result and carry-out together are the nine bits of a + b + cin, so the carry-out is 1 from the
sum 256 on. The boundary is the spec's decision D1 (log 3; 90_conflicts C2). -/
def Obligations.AluAddIsTheNineBitSum : Prop :=
  ∀ (a b : Byte) (cin : Bool),
    256 * (alu a b cin .add).cout.toNat + (alu a b cin .add).y.toNat = a.toNat + b.toNat + cin.toNat

/-- 40_alu R62: a one-bit logical right shift of a, `cin` into bit 7, old bit 0 into the carry-out. -/
def Obligations.AluShrShiftsRight : Prop :=
  ∀ (a b : Byte) (cin : Bool),
    (∀ k : Nat, k < 7 → (alu a b cin .shr).y.getLsbD k = a.getLsbD (k + 1)) ∧
    (alu a b cin .shr).y.getLsbD 7 = cin ∧ (alu a b cin .shr).cout = a.getLsbD 0 ∧
    (alu a b cin .shr).y.toNat = a.toNat / 2 + 128 * cin.toNat

/-- 40_alu R63: a one-bit left shift of a, `cin` into bit 0, old bit 7 into the carry-out. -/
def Obligations.AluShlShiftsLeft : Prop :=
  ∀ (a b : Byte) (cin : Bool),
    (∀ k : Nat, k < 7 → (alu a b cin .shl).y.getLsbD (k + 1) = a.getLsbD k) ∧
    (alu a b cin .shl).y.getLsbD 0 = cin ∧ (alu a b cin .shl).cout = a.getLsbD 7 ∧
    ((alu a b cin .shl).cout = true ↔ 128 ≤ a.toNat) ∧
    (alu a b cin .shl).y.toNat = 2 * a.toNat % 256 + cin.toNat

/-- 40_alu sections 2 and 3, opcodes 3 to 7: NOT, AND, OR and XOR act bit by bit, COMP gives 0. Their carry-out 0 is the
spec's decision D2 (log 4; 90_conflicts C3). -/
def Obligations.AluLogicActsBitByBit : Prop :=
  ∀ (a b : Byte) (cin : Bool),
    (∀ k : Nat, k < 8 →
      (alu a b cin .not).y.getLsbD k = !(a.getLsbD k) ∧
      (alu a b cin .and).y.getLsbD k = (a.getLsbD k && b.getLsbD k) ∧
      (alu a b cin .or).y.getLsbD k = (a.getLsbD k || b.getLsbD k) ∧
      (alu a b cin .xor).y.getLsbD k = (a.getLsbD k != b.getLsbD k)) ∧
    (alu a b cin .not).y.toNat = 255 - a.toNat ∧ (alu a b cin .comp).y = 0 ∧
    ∀ op : AluOp, op = .not ∨ op = .and ∨ op = .or ∨ op = .xor ∨ op = .comp → (alu a b cin op).cout = false

/-- 10_state R17: the packing of an evaluation into FLAG, zero bit from the ALU result. -/
def Obligations.PackFlagsWeighsTheBits : Prop :=
  ∀ r : AluOut, (packFlags r).toNat =
    (if r.y = 0 then 1 else 0) + 2 * r.eq.toNat + 4 * r.gt.toNat + 8 * r.cout.toNat

/-! ## Decoding and encoding -/

/-- 30_encoding section 1 (R46): the fields of the instruction byte, as numbers; `ra` and `rb` name registers by number.
That JMPR's select is the unshifted `IR & 0b1100` is the spec's decision D4 (44_jumps R110; log 8). -/
def Obligations.FieldsOfTheInstructionByte : Prop :=
  ∀ ir : Byte, (clsField ir).toNat = ir.toNat / 128 ∧ (codeField ir).toNat = ir.toNat / 16 % 8 ∧
    (raField ir).num.toNat = ir.toNat / 4 % 4 ∧ (rbField ir).num.toNat = ir.toNat % 4 ∧
    (maskField ir).toNat = ir.toNat % 16 ∧ (jmprSlot (raField ir)).toNat = (ir &&& 0b1100).toNat

/-- 30_encoding R47: every value of the instruction byte is in exactly one row of the opcode map, with that row's operands
and length. -/
def Obligations.EveryByteIsInItsRowOfTheOpcodeMap : Prop :=
  ∀ (ir n : Byte) (rest : List Byte),
    decode (ir :: n :: rest) =
      .ok ((opcodeMap (ir.toNat / 16) (raField ir) (rbField ir) (maskField ir) n).1,
        if (opcodeMap (ir.toNat / 16) (raField ir) (rbField ir) (maskField ir) n).2 then rest else n :: rest)

/-- 30_encoding R48: two bytes are consumed exactly when bit 7 is 0 and bits 6..4 are 2, 4 or 5, otherwise one; and only a
missing byte is ever refused. -/
def Obligations.LengthIsReadFromTheInstructionByte : Prop :=
  decode [] = .error .noInstructionByte ∧
  ∀ ir : Byte,
    ((ir.getLsbD 7 = false ∧ (ir.toNat / 16 % 8 = 2 ∨ ir.toNat / 16 % 8 = 4 ∨ ir.toNat / 16 % 8 = 5)) →
      decode [ir] = .error .noOperandByte ∧
      ∀ (n : Byte) (rest : List Byte), ∃ i, decode (ir :: n :: rest) = .ok (i, rest)) ∧
    (¬ (ir.getLsbD 7 = false ∧ (ir.toNat / 16 % 8 = 2 ∨ ir.toNat / 16 % 8 = 4 ∨ ir.toNat / 16 % 8 = 5)) →
      ∀ rest : List Byte, ∃ i, decode (ir :: rest) = .ok (i, rest))

/-- Decoding the encoding of an instruction gives it back, every operand at every value, and leaves the bytes after it. -/
def Obligations.DecodeOfEncodeIsTheInstruction : Prop :=
  ∀ (i : Instr) (rest : List Byte), decode (encode i ++ rest) = .ok (i, rest)

/-- Encoding the decoded instruction gives back the bytes it was read from, but for ignored bits, which are written as 0.
That ignored bits are ignored is the spec's decision D11 (log 9); that the encoder writes 0x70 for each of the illegal
row's bytes is the model's choice (log 18). -/
def Obligations.EncodeOfDecodeIsTheBytes : Prop :=
  ∀ (bytes : List Byte) (i : Instr) (rest : List Byte), decode bytes = .ok (i, rest) →
    ∃ ir tail, bytes = ir :: tail ∧ encode i ++ rest = clearIgnored ir :: tail

/-- 30_encoding section 3 (R52): bytes of one row that differ in ignored bits alone are the same instruction: all sixteen
of JUMP, of CLF and of the illegal row, and the four of each register of DATA and JMPR. Decision D11 (log 9). -/
def Obligations.IgnoredBitsChangeNothing : Prop :=
  ∀ ir jr n : Byte, ir.toNat / 16 = jr.toNat / 16 →
    ((ir.toNat / 16 = 4 ∨ ir.toNat / 16 = 6 ∨ ir.toNat / 16 = 7) → instrOf ir n = instrOf jr n) ∧
    ((ir.toNat / 16 = 2 ∨ ir.toNat / 16 = 3) → ir.toNat / 4 % 4 = jr.toNat / 4 % 4 → instrOf ir n = instrOf jr n)

/-- Words of the spec's test vectors and encoding tables, one or more of each family (30_encoding R56, 95_test_vectors).
That 0x6F is CLF rests on the spec's decision D11, which ignores its bits 3..0 (log 9). -/
def Obligations.WordsOfTheSpecDecodeAsWritten : Prop :=
  decode [0x81] = .ok (.add .r0 .r1, []) ∧ decode [0x94] = .ok (.shr .r1 .r0, []) ∧
  decode [0xBB] = .ok (.not .r2 .r3, []) ∧ decode [0xF6] = .ok (.comp .r1 .r2, []) ∧
  decode [0x01] = .ok (.load .r0 .r1, []) ∧ decode [0x19] = .ok (.store .r2 .r1, []) ∧
  decode [0x2C, 0xFF] = .ok (.data .r3 255, []) ∧ decode [0x34] = .ok (.jmpr .r1, []) ∧
  decode [0x40, 0x08] = .ok (.jump 8, []) ∧ decode [0x56, 0x80] = .ok (.jcaez 0b0110 0x80, []) ∧
  decode [0x6F] = .ok (.clf, []) ∧ decode [0x7F] = .ok (.illegal, [])

/-! ## The step -/

/-- 41_instruction_cycle section 1 (R75, R77): when the bytes at IAR decode to an instruction, a running machine's step is
that instruction executed on the state after the fetch. -/
def Obligations.StepRunsTheDecodedInstruction : Prop :=
  ∀ (s : State) (i : Instr) (rest : List Byte), s.Safe →
    decode [s.mem.read s.iar, s.mem.read (s.iar + 1)] = .ok (i, rest) → step s = exec i (fetch s)

/-- 41_instruction_cycle section 1 (R76): what the fetch commits and what it leaves. That the increment is staged in ACC is
the spec's decision D5 (log 10). -/
def Obligations.FetchCommitsBeforeDispatch : Prop :=
  ∀ s : State, (fetch s).mar = s.iar ∧ (fetch s).ir = s.mem.read s.iar ∧
    (fetch s).iar.toNat = (s.iar.toNat + 1) % 256 ∧ (fetch s).acc.toNat = (s.iar.toNat + 1) % 256 ∧
    SameRegs s (fetch s) ∧ (fetch s).flag = s.flag ∧ (fetch s).bus = s.bus ∧ (fetch s).halt = s.halt ∧
    (fetch s).mem = s.mem

/-- 41_instruction_cycle section 2 (R80): a halted machine has no step, so nothing but reset leaves a halt. The state
element HALT is the spec's decision D7 (log 7); that the model answers a fault there is log 1. -/
def Obligations.HaltedMachineHasNoStep : Prop :=
  ∀ s : State, (s.halt = .invalidInstruction → serve .step s = .fault .haltedInvalidInstruction) ∧
    (s.halt = .invalidRegisterSlot → serve .step s = .fault .haltedInvalidRegisterSlot) ∧
    serve .reset s = .next State.reset

/-- A running machine always has a next state: no access faults, no encoding is left without a meaning. For the bytes 0x70
to 0x7F and 0x34 to 0x3F that state exists because the model takes a fault as a next state with HALT written: log 1
(DEDUCED), on the spec's decisions D7 for HALT (log 7) and D4 for 0x34 to 0x3F (log 8). -/
def Obligations.RunningMachineAlwaysSteps : Prop :=
  ∀ s : State, s.Safe → ∃ t, step s = .next t

/-- 10_state section 3 (R15): IAR after every instruction, wrapping from 255 to 0. The row of JMPR with a non-zero field is
the spec's decision D4 (log 8). -/
def Obligations.IarAfterEachInstruction : Prop :=
  ∀ s t : State, step s = .next t → t.iar = iarAfter s (fetchedInstr s)

/-- 10_state section 4 (R18): FLAG is written by reset, by ALU-class instructions (to the packing of their evaluation) and by
CLF; no instruction but JCAEZ depends on it, and JCAEZ at most in IAR (which it does, JcaezResult says); no instruction
copies it to a register or to memory. That ADD, SHR and SHL do not read it is the spec's decision D3, carry-in 0 (log 5). -/
def Obligations.FlagWritersAndItsOneReader : Prop :=
  State.reset.flag = 0 ∧
  (∀ s t : State, step s = .next t → t.flag = flagAfter s (fetchedInstr s)) ∧
  ∀ (s t u : State) (f : Byte), step s = .next t → step (s.setFlag f) = .next u →
    SameRegs t u ∧ u.mem = t.mem ∧
    ((∀ (mask : BitVec 4) (n : Byte), fetchedInstr s ≠ .jcaez mask n) → u.setFlag t.flag = t) ∧
    (∀ (mask : BitVec 4) (n : Byte), fetchedInstr s = .jcaez mask n → (u.setFlag t.flag).setIar t.iar = t)

/-- 10_state section 5 (R20, R21, R23): no step depends on what MAR, ACC and IR held before it. -/
def Obligations.StagingRegistersAreNotObserved : Prop :=
  ∀ (s : State) (m a i : Byte), step (((s.setMar m).setAcc a).setIr i) = step s

/-- 10_state section 5 (R22): no step writes BUS and none depends on it. BUS's constant value is the spec's decision D6
(log 6). -/
def Obligations.BusIsNeitherWrittenNorObserved : Prop :=
  ∀ (s t : State) (v : Byte), step s = .next t → t.bus = s.bus ∧ step { s with bus := v } = .next { t with bus := v }

/-- 60_exceptions sections 1 and 3 (R125, R130): a step halts the machine exactly on the bytes 0x70 to 0x7F and 0x34 to
0x3F, each with its own kind. The second range is the spec's decision D4 (log 8). -/
def Obligations.OnlyTheFaultBytesHalt : Prop :=
  ∀ s t : State, step s = .next t →
    (t.halt = .invalidInstruction ↔ 0x70 ≤ (s.mem.read s.iar).toNat ∧ (s.mem.read s.iar).toNat ≤ 0x7F) ∧
    (t.halt = .invalidRegisterSlot ↔ 0x34 ≤ (s.mem.read s.iar).toNat ∧ (s.mem.read s.iar).toNat ≤ 0x3F)

/-- 60_exceptions section 2 (R128): a step that halts leaves exactly the state after its fetch, HALT apart. HALT is the
spec's decision D7 (log 7). -/
def Obligations.FaultLeavesTheStateAfterTheFetch : Prop :=
  ∀ s t : State, step s = .next t → ¬ t.Safe → t = (fetch s).setHalt t.halt

/-! ## The ALU class -/

/-- 42_alu_class section 2, ADD (R86). The carry-in 0 is the spec's decision D3 (log 5), the carry boundary D1 (log 3). -/
def Obligations.AddResult : Prop :=
  ∀ (ra rb : Reg) (s : State), ∃ t, exec (.add ra rb) s = .next t ∧
    (t.reg rb).toNat = ((s.reg ra).toNat + (s.reg rb).toNat) % 256 ∧ t.acc = t.reg rb ∧
    FlagIs t.flag (((s.reg ra).toNat + (s.reg rb).toNat) % 256 = 0) (s.reg ra = s.reg rb)
      ((s.reg rb).toNat < (s.reg ra).toNat) (255 < (s.reg ra).toNat + (s.reg rb).toNat)

/-- 42_alu_class section 2, SHR (R87). The carry-in 0 is the spec's decision D3 (log 5). -/
def Obligations.ShrResult : Prop :=
  ∀ (ra rb : Reg) (s : State), ∃ t, exec (.shr ra rb) s = .next t ∧
    (t.reg rb).toNat = (s.reg ra).toNat / 2 ∧ t.acc = t.reg rb ∧
    FlagIs t.flag ((s.reg ra).toNat / 2 = 0) (s.reg ra = s.reg rb)
      ((s.reg rb).toNat < (s.reg ra).toNat) ((s.reg ra).toNat % 2 = 1)

/-- 42_alu_class section 2, SHL (R88). The carry-in 0 is the spec's decision D3 (log 5). -/
def Obligations.ShlResult : Prop :=
  ∀ (ra rb : Reg) (s : State), ∃ t, exec (.shl ra rb) s = .next t ∧
    (t.reg rb).toNat = 2 * (s.reg ra).toNat % 256 ∧ t.acc = t.reg rb ∧
    FlagIs t.flag (2 * (s.reg ra).toNat % 256 = 0) (s.reg ra = s.reg rb)
      ((s.reg rb).toNat < (s.reg ra).toNat) (128 ≤ (s.reg ra).toNat)

/-- 42_alu_class section 2, NOT (R89). C = 0 is the spec's decision D2 (log 4). -/
def Obligations.NotResult : Prop :=
  ∀ (ra rb : Reg) (s : State), ∃ t, exec (.not ra rb) s = .next t ∧
    (t.reg rb).toNat = 255 - (s.reg ra).toNat ∧ t.acc = t.reg rb ∧
    FlagIs t.flag ((s.reg ra).toNat = 255) (s.reg ra = s.reg rb)
      ((s.reg rb).toNat < (s.reg ra).toNat) False

/-- 42_alu_class section 2, AND (R90), with its corner case: on one register it tests for zero without a change. C = 0 is
the spec's decision D2 (log 4). -/
def Obligations.AndResult : Prop :=
  ∀ (ra rb : Reg) (s : State), ∃ t, exec (.and ra rb) s = .next t ∧
    t.reg rb = s.reg ra &&& s.reg rb ∧ t.acc = t.reg rb ∧
    FlagIs t.flag (s.reg ra &&& s.reg rb = 0) (s.reg ra = s.reg rb)
      ((s.reg rb).toNat < (s.reg ra).toNat) False ∧
    (ra = rb → SameRegs s t)

/-- 42_alu_class section 2, OR (R91), with its corner case: the result is 0 only when both operands are. C = 0 is the spec's
decision D2 (log 4). -/
def Obligations.OrResult : Prop :=
  ∀ (ra rb : Reg) (s : State), ∃ t, exec (.or ra rb) s = .next t ∧
    t.reg rb = s.reg ra ||| s.reg rb ∧ t.acc = t.reg rb ∧
    FlagIs t.flag (s.reg ra = 0 ∧ s.reg rb = 0) (s.reg ra = s.reg rb)
      ((s.reg rb).toNat < (s.reg ra).toNat) False ∧
    (ra = rb → SameRegs s t)

/-- 42_alu_class section 2, XOR (R92), with its corner case: Z and E are equal, and a register XORed with itself is 0 with
FLAG 0b0011. C = 0 is the spec's decision D2 (log 4). -/
def Obligations.XorResult : Prop :=
  ∀ (ra rb : Reg) (s : State), ∃ t, exec (.xor ra rb) s = .next t ∧
    t.reg rb = s.reg ra ^^^ s.reg rb ∧ t.acc = t.reg rb ∧
    FlagIs t.flag (s.reg ra = s.reg rb) (s.reg ra = s.reg rb)
      ((s.reg rb).toNat < (s.reg ra).toNat) False ∧
    (ra = rb → t.reg rb = 0 ∧ t.flag = 0b0011)

/-- 42_alu_class section 2, COMP (R93): ACC and FLAG are written and no general register; FLAG is one of three values.
C = 0 is the spec's decision D2 (log 4). -/
def Obligations.CompResult : Prop :=
  ∀ (ra rb : Reg) (s : State), ∃ t, exec (.comp ra rb) s = .next t ∧ SameRegs s t ∧ t.acc = 0 ∧
    (s.reg ra = s.reg rb → t.flag = 0b0011) ∧
    ((s.reg rb).toNat < (s.reg ra).toNat → t.flag = 0b0101) ∧
    ((s.reg ra).toNat < (s.reg rb).toNat → t.flag = 0b0001)

/-- What ADD, SHR, SHL, NOT, AND, OR, XOR and COMP leave unchanged: every register but the destination rb (all of them, for
COMP), MAR, IAR, IR, BUS, HALT and every byte of memory. ACC and FLAG may change. -/
def Obligations.AluClassFrame : Prop :=
  ∀ (i : Instr) (op : AluOp) (ra rb : Reg) (s : State), aluClassOf i = some (op, ra, rb) →
    ∃ t, exec i s = .next t ∧ SameRegsBut rb s t ∧ (op = .comp → SameRegs s t) ∧ t.mar = s.mar ∧ t.iar = s.iar ∧
      t.ir = s.ir ∧ t.bus = s.bus ∧ t.halt = s.halt ∧ SameBytes s t

/-- 42_alu_class R94: in a step that runs an ALU-class byte, bits 3..2 name operand A and bits 1..0 operand B and the
destination: E and A compare them so, nothing but the destination changes, and the one-operand operations do not read the
destination for their result. -/
def Obligations.AluOperandRoles : Prop :=
  ∀ s t : State, step s = .next t → (s.mem.read s.iar).getLsbD 7 = true →
    ((t.flag.getLsbD 1 = true ↔ s.reg (raField (s.mem.read s.iar)) = s.reg (rbField (s.mem.read s.iar))) ∧
      (t.flag.getLsbD 2 = true ↔
        (s.reg (rbField (s.mem.read s.iar))).toNat < (s.reg (raField (s.mem.read s.iar))).toNat) ∧
      SameRegsBut (rbField (s.mem.read s.iar)) s t) ∧
    ((s.mem.read s.iar).toNat / 16 < 15 → t.reg (rbField (s.mem.read s.iar)) = t.acc) ∧
    ((9 ≤ (s.mem.read s.iar).toNat / 16 ∧ (s.mem.read s.iar).toNat / 16 ≤ 11) →
      raField (s.mem.read s.iar) ≠ rbField (s.mem.read s.iar) →
      ∀ v : Byte, ∃ u, step (s.setReg (rbField (s.mem.read s.iar)) v) = .next u ∧ SameRegs t u)

/-- 30_encoding section 4 (R57): COPY Ra,Rb is two instructions, two bytes and two steps. A running machine whose memory
holds the bytes at IAR and IAR + 1 clears Rb in the first step and has its copy after the second. Rb ends as Ra was, or as
0 when they are the same register; no other register changes; ACC is Rb; FLAG is that of an addition to 0. The operand
order is the spec's decision D12 (log 14), the carry-in 0 is D3 (log 5). -/
def Obligations.CopyMacroCopies : Prop :=
  ∀ (ra rb : Reg) (s : State), copyMacro ra rb = [.xor rb rb, .add ra rb] ∧
    (copyMacro ra rb).flatMap encode =
      [BitVec.ofNat 8 (0xE0 + 4 * rb.num.toNat + rb.num.toNat), BitVec.ofNat 8 (0x80 + 4 * ra.num.toNat + rb.num.toNat)] ∧
    (s.Safe → [s.mem.read s.iar, s.mem.read (s.iar + 1)] = (copyMacro ra rb).flatMap encode →
      ∃ t u, step s = .next t ∧ t.reg rb = 0 ∧ step t = .next u ∧ SameRegsBut rb s u ∧
        (ra ≠ rb → u.reg rb = s.reg ra) ∧ (ra = rb → u.reg rb = 0) ∧ u.acc = u.reg rb ∧
        FlagIs u.flag (u.reg rb = 0) (u.reg rb = 0) (0 < (u.reg rb).toNat) False ∧
        u.iar = s.iar + 2 ∧ u.Safe ∧ SameBytes s u)

/-! ## LOAD, STORE, DATA -/

/-- 43_load_store_data R100: LOAD Ra,Rb, its encoding and its effect; with Ra = Rb the register is overwritten by the byte at
its old value. -/
def Obligations.LoadResult : Prop :=
  ∀ (ra rb : Reg) (s : State), ∃ t, exec (.load ra rb) s = .next t ∧ t.mar = s.reg ra ∧
    t.reg rb = s.mem.read (s.reg ra) ∧ (ra ≠ rb → t.reg ra = s.reg ra) ∧ t.flag = s.flag ∧ t.iar = s.iar ∧
    t.acc = s.acc ∧ decode [BitVec.ofNat 8 (0x00 + 4 * ra.num.toNat + rb.num.toNat)] = .ok (.load ra rb, [])

/-- 43_load_store_data R101: STORE Ra,Rb: bits 3..2 name the address register, bits 1..0 the data register. -/
def Obligations.StoreResult : Prop :=
  ∀ (ra rb : Reg) (s : State), ∃ t, exec (.store ra rb) s = .next t ∧ t.mar = s.reg ra ∧
    t.mem.read (s.reg ra) = s.reg rb ∧ (∀ b : Byte, b ≠ s.reg ra → t.mem.read b = s.mem.read b) ∧ SameRegs s t ∧
    t.flag = s.flag ∧ decode [BitVec.ofNat 8 (0x10 + 4 * ra.num.toNat + rb.num.toNat)] = .ok (.store ra rb, [])

/-- 43_load_store_data, DATA (R102): the operand byte goes to the register of bits 3..2, MAR holds its address, IAR skips
past it. That the increment is staged in ACC is the spec's decision D5 (log 10). -/
def Obligations.DataResult : Prop :=
  ∀ (ra : Reg) (n : Byte) (s : State), ∃ t, exec (.data ra n) s = .next t ∧ t.reg ra = n ∧ t.mar = s.iar ∧
    t.iar.toNat = (s.iar.toNat + 1) % 256 ∧ t.acc = t.iar ∧ t.flag = s.flag

/-- 43_load_store_data (R100 to R103), the frame: LOAD, STORE and DATA never write FLAG and never fault (they answer a next
state and HALT is as it was); LOAD and DATA change no general register but their destination, and no memory byte; STORE no
general register, and no memory byte but the one at its effective address. IR and BUS are as they were
after all three, ACC and IAR after LOAD and STORE. What they write, MAR and DATA's ACC and IAR among it, is in LoadResult,
StoreResult and DataResult. -/
def Obligations.LoadStoreDataFrame : Prop :=
  (∀ (ra rb : Reg) (s : State), ∃ t, exec (.load ra rb) s = .next t ∧ SameRegsBut rb s t ∧ t.flag = s.flag ∧
    t.acc = s.acc ∧ t.iar = s.iar ∧ t.ir = s.ir ∧ t.bus = s.bus ∧ t.halt = s.halt ∧ SameBytes s t) ∧
  (∀ (ra : Reg) (n : Byte) (s : State), ∃ t, exec (.data ra n) s = .next t ∧ SameRegsBut ra s t ∧ t.flag = s.flag ∧
    t.ir = s.ir ∧ t.bus = s.bus ∧ t.halt = s.halt ∧ SameBytes s t) ∧
  (∀ (ra rb : Reg) (s : State), ∃ t, exec (.store ra rb) s = .next t ∧ SameRegs s t ∧ t.flag = s.flag ∧
    t.acc = s.acc ∧ t.iar = s.iar ∧ t.ir = s.ir ∧ t.bus = s.bus ∧ t.halt = s.halt ∧
    ∀ a b : Byte, effectiveAddress s ra = a → b ≠ a → t.mem.read b = s.mem.read b)

/-- 43_load_store_data, DATA (R102), as a whole step: the byte loaded is the memory byte after the instruction byte, at
execution time, at every address, 255 included. The ignored bits are D11 (log 9), the staging in ACC D5 (log 10). -/
def Obligations.DataStepLoadsTheNextByte : Prop :=
  ∀ s : State, s.Safe → (s.mem.read s.iar).toNat / 16 = 2 →
    ∃ t, step s = .next t ∧ t.reg (raField (s.mem.read s.iar)) = s.mem.read (s.iar + 1) ∧
      SameRegsBut (raField (s.mem.read s.iar)) s t ∧ t.mar = s.iar + 1 ∧ t.iar = s.iar + 2 ∧ t.acc = s.iar + 2 ∧
      t.ir = s.mem.read s.iar ∧ t.flag = s.flag ∧ SameBytes s t

/-! ## Jumps -/

/-- 44_jumps, JMPR (R110), register field 0: IAR becomes R0 and nothing else changes. The literal reading of the register
field is the spec's decision D4 (log 8). -/
def Obligations.JmprJumpsThroughR0 : Prop :=
  ∀ s : State, exec (.jmpr .r0) s = .next { s with iar := s.r0 }

/-- 44_jumps, JMPR (R111), any other register field: InvalidRegisterSlot halts the machine and nothing else changes. The
spec's decisions D4 (log 8) and D7 (log 7). -/
def Obligations.JmprOtherSlotHalts : Prop :=
  ∀ (ra : Reg) (s : State), ra ≠ .r0 → exec (.jmpr ra) s = .next { s with halt := .invalidRegisterSlot }

/-- 44_jumps, JUMP (R112), on the state after the fetch. The operand byte comes with the decoded instruction (log 2). -/
def Obligations.JumpResult : Prop :=
  ∀ (n : Byte) (s : State), ∃ t, exec (.jump n) s = .next t ∧ t.mar = s.iar ∧ t.iar = n ∧ t.acc = s.acc ∧ t.flag = s.flag

/-- 44_jumps R112, as a whole step: for each of the sixteen bytes 0x40 to 0x4F, IAR becomes the memory byte after the
instruction byte, at execution time, and MAR its address, at every address, 255 included; ACC keeps the value staged by the
fetch. -/
def Obligations.JumpStepGoesToTheOperandByte : Prop :=
  ∀ s : State, s.Safe → (s.mem.read s.iar).toNat / 16 = 4 →
    ∃ t, step s = .next t ∧ t.mar = s.iar + 1 ∧ t.iar = s.mem.read (s.iar + 1) ∧ t.acc = (fetch s).acc ∧
      t.flag = s.flag ∧ t.halt = s.halt

/-- 44_jumps, JCAEZ (R113), on the state after the fetch: the operand byte is passed, and the branch is taken exactly when
some flag selected by the mask is 1. Carry-in 0 and the staging in ACC are the spec's decisions D3 and D5 (log 5, 10); the
operand byte comes with the decoded instruction (log 2). -/
def Obligations.JcaezResult : Prop :=
  ∀ (mask : BitVec 4) (n : Byte) (s : State), ∃ t, exec (.jcaez mask n) s = .next t ∧ t.mar = s.iar ∧
    t.acc.toNat = (s.iar.toNat + 1) % 256 ∧ t.flag = s.flag ∧
    ((∃ k : Nat, k < 4 ∧ mask.getLsbD k = true ∧ s.flag.getLsbD k = true) → t.iar = n) ∧
    ((∀ k : Nat, k < 4 → mask.getLsbD k = true → s.flag.getLsbD k = false) → t.iar = t.acc)

/-- 44_jumps, JCAEZ (R113), as a whole step: the target is the memory byte after the instruction byte, the mask its low four
bits; not taken, IAR ends two past the instruction. Decisions D3 and D5 (log 5, 10). -/
def Obligations.JcaezStepBranchesOnSelectedFlags : Prop :=
  ∀ s : State, s.Safe → (s.mem.read s.iar).toNat / 16 = 5 →
    ∃ t, step s = .next t ∧ t.mar = s.iar + 1 ∧ t.acc = s.iar + 2 ∧ t.flag = s.flag ∧
      ((∃ k : Nat, k < 4 ∧ (s.mem.read s.iar).getLsbD k = true ∧ s.flag.getLsbD k = true) →
        t.iar = s.mem.read (s.iar + 1)) ∧
      ((∀ k : Nat, k < 4 → (s.mem.read s.iar).getLsbD k = true → s.flag.getLsbD k = false) → t.iar = s.iar + 2)

/-- 44_jumps, end (R114): what JMPR, JUMP and JCAEZ leave unchanged: every general register, FLAG, IR, BUS and every byte of
memory; HALT too, but for a JMPR whose register field is not 0 (decision D4, log 8). -/
def Obligations.JumpsFrame : Prop :=
  ∀ (i : Instr) (s : State),
    ((∃ ra, i = .jmpr ra) ∨ (∃ n, i = .jump n) ∨ (∃ mask n, i = .jcaez mask n)) →
    ∃ t, exec i s = .next t ∧ SameRegs s t ∧ t.flag = s.flag ∧ t.ir = s.ir ∧ t.bus = s.bus ∧ SameBytes s t ∧
      ((∀ ra, i = .jmpr ra → ra = .r0) → t.halt = s.halt) ∧
      ((∃ ra, i = .jmpr ra) → t.mar = s.mar ∧ t.acc = s.acc) ∧ ((∃ n, i = .jump n) → t.acc = s.acc)

/-! ## CLF and the illegal row -/

/-- 45_clf R120: all four flags become 0 and nothing else changes. -/
def Obligations.ClfResult : Prop :=
  ∀ s : State, ∃ t, exec .clf s = .next t ∧ FlagIs t.flag False False False False ∧ t = { s with flag := 0 }

/-- 41_instruction_cycle section 2 (R79): the illegal row halts with InvalidInstruction and nothing else changes after the
fetch. HALT is the spec's decision D7 (log 7). -/
def Obligations.IllegalByteHalts : Prop :=
  ∀ s : State, exec .illegal s = .next { s with halt := .invalidInstruction }

/-! ## The host's run -/

/-- 70_reset_and_hazards, loading (R143): after loading, memory is the image from address 0 on and 0 above it, and the rest
of the machine is as reset left it. A longer image is refused: the spec's decision D15 (log 11). -/
def Obligations.LoadedImageFillsMemory : Prop :=
  ∀ image : List Byte,
    (image.length ≤ 256 → ∃ s, loadImage image = .next s ∧ s = State.reset.setMem s.mem ∧ s.Inv ∧
      ∀ a : Byte, s.mem.read a = image.getD a.toNat 0) ∧
    (256 < image.length → loadImage image = .refused (.imageTooLong image.length))

/-- 70_reset_and_hazards section 3 (R150): run(t, N) is `step` applied N times, whenever neither the address test nor a
fault stops it sooner; `max_cycles` counts whole instructions. That the arguments are natural numbers of any size is the
spec's decision D14 (log 11). -/
def Obligations.RunIsStepAppliedBudgetTimes : Prop :=
  ∀ (target budget : Nat) (s t : State), stepTimes budget s = .next t →
    (∀ (k : Nat) (u : State), k < budget → stepTimes k s = .next u → u.Safe ∧ u.iar.toNat < target) →
    (driverRun target budget s).state = t ∧ (driverRun target budget s).steps = budget

/-- 70_reset_and_hazards section 3 (R146 to R148): every run is some number of steps, at most the budget, and stops at the
first boundary whose machine is halted or has IAR at or above the target: every boundary before a step it runs, the first
one included, is running and below the target, so the target 0 runs no step. It ends in exactly one of three ways, told
apart by HALT and IAR at its last boundary; it is safe exactly when it does not end in a halt. The types of the arguments
are the spec's decision D14 (log 11); that a step may leave a halted machine is log 1; that a halt goes before the target
is log 13. -/
def Obligations.RunEndsInOneOfThreeWays : Prop :=
  ∀ (target budget : Nat) (s : State), ∃ r, driverRun target budget s = r ∧
    r.steps ≤ budget ∧ stepTimes r.steps s = .next r.state ∧
    (∀ (k : Nat) (u : State), k < r.steps → stepTimes k s = .next u → u.Safe ∧ u.iar.toNat < target) ∧
    (r.ending = .failed ↔ ¬ r.state.Safe) ∧
    (r.ending = .targetReached ↔ r.state.Safe ∧ target ≤ r.state.iar.toNat) ∧
    (r.ending = .budgetExhausted ↔ r.state.Safe ∧ r.state.iar.toNat < target) ∧
    (r.ending = .budgetExhausted → r.steps = budget) ∧ (r.Safe ↔ r.state.Safe)
end

