-- ==== Sys2Proof/Laws/Alu.lean ====
section
/-! SUPPORT. The flags an ALU evaluation packs, bit by bit (10_state R16, R17). -/

namespace Sys2Proof.Machine

@[simp] theorem packFlags_bit0 (r : AluOut) : (packFlags r)[0] = decide (r.y = 0) := by
  unfold packFlags
  cases decide (r.y = 0) <;> cases r.eq <;> cases r.gt <;> cases r.cout <;> rfl

@[simp] theorem packFlags_bit1 (r : AluOut) : (packFlags r)[1] = r.eq := by
  unfold packFlags
  cases decide (r.y = 0) <;> cases r.eq <;> cases r.gt <;> cases r.cout <;> rfl

@[simp] theorem packFlags_bit2 (r : AluOut) : (packFlags r)[2] = r.gt := by
  unfold packFlags
  cases decide (r.y = 0) <;> cases r.eq <;> cases r.gt <;> cases r.cout <;> rfl

@[simp] theorem packFlags_bit3 (r : AluOut) : (packFlags r)[3] = r.cout := by
  unfold packFlags
  cases decide (r.y = 0) <;> cases r.eq <;> cases r.gt <;> cases r.cout <;> rfl

/-- Only the four low bits are ever packed. -/
theorem packFlags_lt (r : AluOut) : (packFlags r).toNat < 16 := by
  unfold packFlags
  cases decide (r.y = 0) <;> cases r.eq <;> cases r.gt <;> cases r.cout <;> decide

@[simp] theorem alu_y (a b : Byte) (cin : Bool) (op : AluOp) : (alu a b cin op).y = aluResult a b cin op := rfl
@[simp] theorem alu_cout (a b : Byte) (cin : Bool) (op : AluOp) : (alu a b cin op).cout = aluCarryOut a b cin op := rfl
@[simp] theorem alu_eq (a b : Byte) (cin : Bool) (op : AluOp) : (alu a b cin op).eq = decide (a = b) := rfl
@[simp] theorem alu_gt (a b : Byte) (cin : Bool) (op : AluOp) : (alu a b cin op).gt = decide (a.toNat > b.toNat) := rfl

end Sys2Proof.Machine
end

