-- ==== Sys2Proof/Laws/Decode.lean ====
section
/-! SUPPORT. Register numbers and the reading of a byte list (30_encoding R46, R48). -/

namespace Sys2Proof

@[simp] theorem ofNum_num (r : Reg) : Reg.ofNum r.num = r := by cases r <;> rfl

@[simp] theorem num_ofNum (n : BitVec 2) : (Reg.ofNum n).num = n := by
  revert n
  decide

/-- A one-byte instruction leaves the rest of the list. -/
theorem decode_one {ir : Byte} (rest : List Byte) (h : hasOperandByte ir = false) :
    decode (ir :: rest) = .ok (instrOf ir 0, rest) := by
  simp [decode, h]

/-- A two-byte instruction takes its operand byte from the list. -/
theorem decode_two {ir : Byte} (n : Byte) (rest : List Byte) (h : hasOperandByte ir = true) :
    decode (ir :: n :: rest) = .ok (instrOf ir n, rest) := by
  simp [decode, h]

/-- A one-byte instruction does not depend on the byte after it. -/
theorem instrOf_one {ir : Byte} (n m : Byte) (h : hasOperandByte ir = false) : instrOf ir n = instrOf ir m := by
  revert h
  unfold hasOperandByte instrOf decoder
  generalize clsField ir = c
  generalize codeField ir = k
  have hk : k = 0 ∨ k = 1 ∨ k = 2 ∨ k = 3 ∨ k = 4 ∨ k = 5 ∨ k = 6 ∨ k = 7 := by
    revert k
    decide
  cases c <;> rcases hk with rfl | rfl | rfl | rfl | rfl | rfl | rfl | rfl <;> simp

/-- Every JCAEZ byte calls for an operand byte, whatever its mask. -/
theorem hasOperandByte_jcaez : ∀ mask : BitVec 4, hasOperandByte (byteOfLow 0b0101 mask) = true := by decide

end Sys2Proof
end

