-- ==== Sys2Proof/Laws/Driver.lean ====
section
/-! SUPPORT. The run loop, said once: what its test finds, when it stops, what one turn does. -/

namespace Sys2Proof.Machine

/-- The loop goes on exactly from a running machine below the target (70_reset_and_hazards R146). -/
theorem boundaryEnd_eq_none {target : Nat} {s : State} :
    boundaryEnd target s = none ↔ s.halt = .running ∧ s.iar.toNat < target := by
  unfold boundaryEnd
  split
  · simp_all
  · split <;> simp_all

/-- Where the test finds an end, the run stops there, whatever budget is left. -/
theorem runFrom_stops {target : Nat} {s : State} {e : RunEnd} (h : boundaryEnd target s = some e) (budget n : Nat) :
    runFrom target budget n s = { ending := e, state := s, steps := n } := by
  cases budget <;> simp [runFrom, h]

/-- One turn of the loop: the test finds no end, a step is left, and it answers a next state. -/
theorem runFrom_turn {target : Nat} {s t : State} (h : boundaryEnd target s = none) (hs : step s = .next t)
    (budget n : Nat) : runFrom target (budget + 1) n s = runFrom target budget (n + 1) t := by
  simp [runFrom, h, hs]

/-- The first of several steps, taken off. -/
theorem stepTimes_succ {s t : State} (h : step s = .next t) (n : Nat) : stepTimes (n + 1) s = stepTimes n t := by
  simp [stepTimes, h]

end Sys2Proof.Machine
end

