-- ==== Sys2Proof/Laws/Memory.lean ====
section
/-! SUPPORT. What the memory operations do to one address, and that each keeps the canonical form (20_memory R30, R32). -/

namespace Sys2Proof.Machine

theorem lookup_erase_same (m : Memory) (a : Nat) : Memory.lookup (Memory.erase m a) a = 0#8 := by
  induction m with
  | nil => rfl
  | cons c rest ih =>
    obtain ⟨k, v⟩ := c
    by_cases h : k = a <;> simp [Memory.erase, Memory.lookup, h, ih]

theorem lookup_erase_other (m : Memory) {a b : Nat} (hab : b ≠ a) :
    Memory.lookup (Memory.erase m a) b = Memory.lookup m b := by
  induction m with
  | nil => rfl
  | cons c rest ih =>
    obtain ⟨k, v⟩ := c
    by_cases h : k = a
    · have hb : k ≠ b := fun e => hab (e.symm.trans h)
      simp [Memory.erase, Memory.lookup, h, ih, Ne.symm hab]
    · simp [Memory.erase, Memory.lookup, h, ih]

/-- A cell placed among cells of other addresses is the one found at its address. -/
theorem lookup_place_same (m : Memory) (a : Nat) (v : Byte) :
    Memory.lookup (Memory.place (Memory.erase m a) a v) a = v := by
  induction m with
  | nil => simp [Memory.erase, Memory.place, Memory.lookup]
  | cons c rest ih =>
    obtain ⟨k, w⟩ := c
    by_cases h : k = a
    · simpa [Memory.erase, h] using ih
    · by_cases hlt : a < k <;> simp [Memory.erase, Memory.place, Memory.lookup, h, hlt, ih]

theorem lookup_place_other (m : Memory) {a b : Nat} (v : Byte) (hab : b ≠ a) :
    Memory.lookup (Memory.place m a v) b = Memory.lookup m b := by
  induction m with
  | nil => simp [Memory.place, Memory.lookup, Ne.symm hab]
  | cons c rest ih =>
    obtain ⟨k, w⟩ := c
    by_cases hlt : a < k
    · simp [Memory.place, Memory.lookup, hlt, Ne.symm hab]
    · simp [Memory.place, Memory.lookup, hlt, ih]

theorem wfFrom_weaken {m : Memory} {lo hi : Nat} (hle : lo ≤ hi) (h : Memory.wfFrom hi m = true) :
    Memory.wfFrom lo m = true := by
  cases m with
  | nil => rfl
  | cons c rest =>
    obtain ⟨k, v⟩ := c
    simp only [Memory.wfFrom, Bool.and_eq_true, decide_eq_true_eq] at h ⊢
    exact ⟨⟨⟨hle.trans h.1.1.1, h.1.1.2⟩, h.1.2⟩, h.2⟩

theorem wfFrom_erase {m : Memory} {lo : Nat} (a : Nat) (h : Memory.wfFrom lo m = true) :
    Memory.wfFrom lo (Memory.erase m a) = true := by
  induction m generalizing lo with
  | nil => rfl
  | cons c rest ih =>
    obtain ⟨k, v⟩ := c
    simp only [Memory.wfFrom, Bool.and_eq_true, decide_eq_true_eq] at h
    by_cases hk : k = a
    · simpa [Memory.erase, hk] using wfFrom_weaken (by omega) (ih h.2)
    · simp [Memory.erase, Memory.wfFrom, hk, h.1.1.1, h.1.1.2, bne_iff_ne.mp h.1.2, ih h.2]

theorem wfFrom_place_erase {m : Memory} {lo a : Nat} {v : Byte} (hlo : lo ≤ a) (ha : a < Config.memorySize)
    (hv : v ≠ 0#8) (h : Memory.wfFrom lo m = true) :
    Memory.wfFrom lo (Memory.place (Memory.erase m a) a v) = true := by
  induction m generalizing lo with
  | nil => simp [Memory.erase, Memory.place, Memory.wfFrom, hlo, ha, hv]
  | cons c rest ih =>
    obtain ⟨k, w⟩ := c
    simp only [Memory.wfFrom, Bool.and_eq_true, decide_eq_true_eq] at h
    obtain ⟨⟨⟨hk, hks⟩, hw⟩, hrest⟩ := h
    by_cases hka : k = a
    · simpa [Memory.erase, hka] using ih hlo (wfFrom_weaken (by omega) hrest)
    · by_cases hlt : a < k
      · have he := wfFrom_erase a hrest
        simp [Memory.erase, Memory.place, Memory.wfFrom, hka, hlt, hlo, ha, hv, hks, bne_iff_ne.mp hw, he,
          Nat.succ_le_of_lt hlt]
      · have ih' := ih (lo := k + 1) (by omega) hrest
        simp [Memory.erase, Memory.place, Memory.wfFrom, hka, hlt, hk, hks, bne_iff_ne.mp hw, ih']

/-- Every write keeps the canonical form. -/
theorem write_keeps_wf {m : Memory} (addr v : Byte) (h : m.wf = true) : (m.write addr v).wf = true := by
  unfold Memory.write Memory.wf
  split
  · exact wfFrom_erase _ h
  · exact wfFrom_place_erase (Nat.zero_le _) addr.isLt ‹_› h

/-- Loading an image keeps the canonical form. -/
theorem storeImage_keeps_wf (image : List Byte) {m : Memory} (a : Nat) (h : m.wf = true) :
    (storeImage m a image).wf = true := by
  induction image generalizing m a with
  | nil => exact h
  | cons b rest ih => exact ih (a + 1) (write_keeps_wf _ _ h)

/-- The reset memory is canonical. -/
theorem reset_mem_wf : State.reset.mem.wf = true := rfl

end Sys2Proof.Machine
end

