-- ==== Sys2Proof/Laws/State.lean ====
section
/-! SUPPORT. One lemma per field per update, so that no proof unfolds a record update (10_state: no element is an alias
of another, R10). -/

namespace Sys2Proof.Machine

section
variable (s : State)

@[simp] theorem setMar_r0 (v : Byte) : (s.setMar v).r0 = s.r0 := rfl
@[simp] theorem setMar_r1 (v : Byte) : (s.setMar v).r1 = s.r1 := rfl
@[simp] theorem setMar_r2 (v : Byte) : (s.setMar v).r2 = s.r2 := rfl
@[simp] theorem setMar_r3 (v : Byte) : (s.setMar v).r3 = s.r3 := rfl
@[simp] theorem setMar_mar (v : Byte) : (s.setMar v).mar = v := rfl
@[simp] theorem setMar_acc (v : Byte) : (s.setMar v).acc = s.acc := rfl
@[simp] theorem setMar_bus (v : Byte) : (s.setMar v).bus = s.bus := rfl
@[simp] theorem setMar_iar (v : Byte) : (s.setMar v).iar = s.iar := rfl
@[simp] theorem setMar_ir (v : Byte) : (s.setMar v).ir = s.ir := rfl
@[simp] theorem setMar_flag (v : Byte) : (s.setMar v).flag = s.flag := rfl
@[simp] theorem setMar_halt (v : Byte) : (s.setMar v).halt = s.halt := rfl
@[simp] theorem setMar_mem (v : Byte) : (s.setMar v).mem = s.mem := rfl
@[simp] theorem setMar_reg (v : Byte) (r : Reg) : (s.setMar v).reg r = s.reg r := by cases r <;> rfl

@[simp] theorem setAcc_r0 (v : Byte) : (s.setAcc v).r0 = s.r0 := rfl
@[simp] theorem setAcc_r1 (v : Byte) : (s.setAcc v).r1 = s.r1 := rfl
@[simp] theorem setAcc_r2 (v : Byte) : (s.setAcc v).r2 = s.r2 := rfl
@[simp] theorem setAcc_r3 (v : Byte) : (s.setAcc v).r3 = s.r3 := rfl
@[simp] theorem setAcc_mar (v : Byte) : (s.setAcc v).mar = s.mar := rfl
@[simp] theorem setAcc_acc (v : Byte) : (s.setAcc v).acc = v := rfl
@[simp] theorem setAcc_bus (v : Byte) : (s.setAcc v).bus = s.bus := rfl
@[simp] theorem setAcc_iar (v : Byte) : (s.setAcc v).iar = s.iar := rfl
@[simp] theorem setAcc_ir (v : Byte) : (s.setAcc v).ir = s.ir := rfl
@[simp] theorem setAcc_flag (v : Byte) : (s.setAcc v).flag = s.flag := rfl
@[simp] theorem setAcc_halt (v : Byte) : (s.setAcc v).halt = s.halt := rfl
@[simp] theorem setAcc_mem (v : Byte) : (s.setAcc v).mem = s.mem := rfl
@[simp] theorem setAcc_reg (v : Byte) (r : Reg) : (s.setAcc v).reg r = s.reg r := by cases r <;> rfl

@[simp] theorem setIar_r0 (v : Byte) : (s.setIar v).r0 = s.r0 := rfl
@[simp] theorem setIar_r1 (v : Byte) : (s.setIar v).r1 = s.r1 := rfl
@[simp] theorem setIar_r2 (v : Byte) : (s.setIar v).r2 = s.r2 := rfl
@[simp] theorem setIar_r3 (v : Byte) : (s.setIar v).r3 = s.r3 := rfl
@[simp] theorem setIar_mar (v : Byte) : (s.setIar v).mar = s.mar := rfl
@[simp] theorem setIar_acc (v : Byte) : (s.setIar v).acc = s.acc := rfl
@[simp] theorem setIar_bus (v : Byte) : (s.setIar v).bus = s.bus := rfl
@[simp] theorem setIar_iar (v : Byte) : (s.setIar v).iar = v := rfl
@[simp] theorem setIar_ir (v : Byte) : (s.setIar v).ir = s.ir := rfl
@[simp] theorem setIar_flag (v : Byte) : (s.setIar v).flag = s.flag := rfl
@[simp] theorem setIar_halt (v : Byte) : (s.setIar v).halt = s.halt := rfl
@[simp] theorem setIar_mem (v : Byte) : (s.setIar v).mem = s.mem := rfl
@[simp] theorem setIar_reg (v : Byte) (r : Reg) : (s.setIar v).reg r = s.reg r := by cases r <;> rfl

@[simp] theorem setIr_r0 (v : Byte) : (s.setIr v).r0 = s.r0 := rfl
@[simp] theorem setIr_r1 (v : Byte) : (s.setIr v).r1 = s.r1 := rfl
@[simp] theorem setIr_r2 (v : Byte) : (s.setIr v).r2 = s.r2 := rfl
@[simp] theorem setIr_r3 (v : Byte) : (s.setIr v).r3 = s.r3 := rfl
@[simp] theorem setIr_mar (v : Byte) : (s.setIr v).mar = s.mar := rfl
@[simp] theorem setIr_acc (v : Byte) : (s.setIr v).acc = s.acc := rfl
@[simp] theorem setIr_bus (v : Byte) : (s.setIr v).bus = s.bus := rfl
@[simp] theorem setIr_iar (v : Byte) : (s.setIr v).iar = s.iar := rfl
@[simp] theorem setIr_ir (v : Byte) : (s.setIr v).ir = v := rfl
@[simp] theorem setIr_flag (v : Byte) : (s.setIr v).flag = s.flag := rfl
@[simp] theorem setIr_halt (v : Byte) : (s.setIr v).halt = s.halt := rfl
@[simp] theorem setIr_mem (v : Byte) : (s.setIr v).mem = s.mem := rfl
@[simp] theorem setIr_reg (v : Byte) (r : Reg) : (s.setIr v).reg r = s.reg r := by cases r <;> rfl

@[simp] theorem setFlag_r0 (v : Byte) : (s.setFlag v).r0 = s.r0 := rfl
@[simp] theorem setFlag_r1 (v : Byte) : (s.setFlag v).r1 = s.r1 := rfl
@[simp] theorem setFlag_r2 (v : Byte) : (s.setFlag v).r2 = s.r2 := rfl
@[simp] theorem setFlag_r3 (v : Byte) : (s.setFlag v).r3 = s.r3 := rfl
@[simp] theorem setFlag_mar (v : Byte) : (s.setFlag v).mar = s.mar := rfl
@[simp] theorem setFlag_acc (v : Byte) : (s.setFlag v).acc = s.acc := rfl
@[simp] theorem setFlag_bus (v : Byte) : (s.setFlag v).bus = s.bus := rfl
@[simp] theorem setFlag_iar (v : Byte) : (s.setFlag v).iar = s.iar := rfl
@[simp] theorem setFlag_ir (v : Byte) : (s.setFlag v).ir = s.ir := rfl
@[simp] theorem setFlag_flag (v : Byte) : (s.setFlag v).flag = v := rfl
@[simp] theorem setFlag_halt (v : Byte) : (s.setFlag v).halt = s.halt := rfl
@[simp] theorem setFlag_mem (v : Byte) : (s.setFlag v).mem = s.mem := rfl
@[simp] theorem setFlag_reg (v : Byte) (r : Reg) : (s.setFlag v).reg r = s.reg r := by cases r <;> rfl

@[simp] theorem setHalt_r0 (v : Halt) : (s.setHalt v).r0 = s.r0 := rfl
@[simp] theorem setHalt_r1 (v : Halt) : (s.setHalt v).r1 = s.r1 := rfl
@[simp] theorem setHalt_r2 (v : Halt) : (s.setHalt v).r2 = s.r2 := rfl
@[simp] theorem setHalt_r3 (v : Halt) : (s.setHalt v).r3 = s.r3 := rfl
@[simp] theorem setHalt_mar (v : Halt) : (s.setHalt v).mar = s.mar := rfl
@[simp] theorem setHalt_acc (v : Halt) : (s.setHalt v).acc = s.acc := rfl
@[simp] theorem setHalt_bus (v : Halt) : (s.setHalt v).bus = s.bus := rfl
@[simp] theorem setHalt_iar (v : Halt) : (s.setHalt v).iar = s.iar := rfl
@[simp] theorem setHalt_ir (v : Halt) : (s.setHalt v).ir = s.ir := rfl
@[simp] theorem setHalt_flag (v : Halt) : (s.setHalt v).flag = s.flag := rfl
@[simp] theorem setHalt_halt (v : Halt) : (s.setHalt v).halt = v := rfl
@[simp] theorem setHalt_mem (v : Halt) : (s.setHalt v).mem = s.mem := rfl
@[simp] theorem setHalt_reg (v : Halt) (r : Reg) : (s.setHalt v).reg r = s.reg r := by cases r <;> rfl

@[simp] theorem setMem_r0 (v : Memory) : (s.setMem v).r0 = s.r0 := rfl
@[simp] theorem setMem_r1 (v : Memory) : (s.setMem v).r1 = s.r1 := rfl
@[simp] theorem setMem_r2 (v : Memory) : (s.setMem v).r2 = s.r2 := rfl
@[simp] theorem setMem_r3 (v : Memory) : (s.setMem v).r3 = s.r3 := rfl
@[simp] theorem setMem_mar (v : Memory) : (s.setMem v).mar = s.mar := rfl
@[simp] theorem setMem_acc (v : Memory) : (s.setMem v).acc = s.acc := rfl
@[simp] theorem setMem_bus (v : Memory) : (s.setMem v).bus = s.bus := rfl
@[simp] theorem setMem_iar (v : Memory) : (s.setMem v).iar = s.iar := rfl
@[simp] theorem setMem_ir (v : Memory) : (s.setMem v).ir = s.ir := rfl
@[simp] theorem setMem_flag (v : Memory) : (s.setMem v).flag = s.flag := rfl
@[simp] theorem setMem_halt (v : Memory) : (s.setMem v).halt = s.halt := rfl
@[simp] theorem setMem_mem (v : Memory) : (s.setMem v).mem = v := rfl
@[simp] theorem setMem_reg (v : Memory) (r : Reg) : (s.setMem v).reg r = s.reg r := by cases r <;> rfl

/-- A written register reads as written and no other register changes. -/
@[simp] theorem setReg_reg (d r : Reg) (v : Byte) : (s.setReg d v).reg r = if r = d then v else s.reg r := by
  cases d <;> cases r <;> rfl
@[simp] theorem setReg_mar (d : Reg) (v : Byte) : (s.setReg d v).mar = s.mar := by cases d <;> rfl
@[simp] theorem setReg_acc (d : Reg) (v : Byte) : (s.setReg d v).acc = s.acc := by cases d <;> rfl
@[simp] theorem setReg_bus (d : Reg) (v : Byte) : (s.setReg d v).bus = s.bus := by cases d <;> rfl
@[simp] theorem setReg_iar (d : Reg) (v : Byte) : (s.setReg d v).iar = s.iar := by cases d <;> rfl
@[simp] theorem setReg_ir (d : Reg) (v : Byte) : (s.setReg d v).ir = s.ir := by cases d <;> rfl
@[simp] theorem setReg_flag (d : Reg) (v : Byte) : (s.setReg d v).flag = s.flag := by cases d <;> rfl
@[simp] theorem setReg_halt (d : Reg) (v : Byte) : (s.setReg d v).halt = s.halt := by cases d <;> rfl
@[simp] theorem setReg_mem (d : Reg) (v : Byte) : (s.setReg d v).mem = s.mem := by cases d <;> rfl

end

/-- Two states with equal registers and equal other elements are equal. -/
theorem state_eq_of_fields (s t : State) (regs : ∀ r : Reg, s.reg r = t.reg r) (mar : s.mar = t.mar) (acc : s.acc = t.acc)
    (bus : s.bus = t.bus) (iar : s.iar = t.iar) (ir : s.ir = t.ir) (flag : s.flag = t.flag) (halt : s.halt = t.halt)
    (mem : s.mem = t.mem) : s = t := by
  have h0 := regs .r0
  have h1 := regs .r1
  have h2 := regs .r2
  have h3 := regs .r3
  cases s
  cases t
  simp_all [State.reg]

end Sys2Proof.Machine
end

