-- ==== Sys2Proof/Laws/Ops.lean ====
section
/-! SUPPORT. What each shared operation does, said once: every field it writes and that it writes no other. -/

namespace Sys2Proof.Machine

/-- The increment is the 8-bit successor, wrapping from 255 to 0 (10_state R15). -/
theorem inc_eq (v : Byte) : inc v = v + 1 := by
  apply BitVec.eq_of_toNat_eq
  simp [inc, alu, aluResult]

/-- The fetch (41_instruction_cycle R76) writes IR, MAR, ACC and IAR and nothing else. -/
theorem fetch_eq (s : State) :
    fetch s = { s with acc := inc s.iar, mar := s.iar, ir := s.mem.read s.iar, iar := inc s.iar } := rfl

@[simp] theorem fetch_mar (s : State) : (fetch s).mar = s.iar := rfl
@[simp] theorem fetch_acc (s : State) : (fetch s).acc = inc s.iar := rfl
@[simp] theorem fetch_iar (s : State) : (fetch s).iar = inc s.iar := rfl
@[simp] theorem fetch_ir (s : State) : (fetch s).ir = s.mem.read s.iar := rfl
@[simp] theorem fetch_bus (s : State) : (fetch s).bus = s.bus := rfl
@[simp] theorem fetch_flag (s : State) : (fetch s).flag = s.flag := rfl
@[simp] theorem fetch_halt (s : State) : (fetch s).halt = s.halt := rfl
@[simp] theorem fetch_mem (s : State) : (fetch s).mem = s.mem := rfl
@[simp] theorem fetch_reg (s : State) (r : Reg) : (fetch s).reg r = s.reg r := by cases r <;> rfl

@[simp] theorem raise_halt (s : State) (f : Halt) : (s.raise f).halt = f := rfl
@[simp] theorem raise_mar (s : State) (f : Halt) : (s.raise f).mar = s.mar := rfl
@[simp] theorem raise_acc (s : State) (f : Halt) : (s.raise f).acc = s.acc := rfl
@[simp] theorem raise_iar (s : State) (f : Halt) : (s.raise f).iar = s.iar := rfl
@[simp] theorem raise_ir (s : State) (f : Halt) : (s.raise f).ir = s.ir := rfl
@[simp] theorem raise_bus (s : State) (f : Halt) : (s.raise f).bus = s.bus := rfl
@[simp] theorem raise_flag (s : State) (f : Halt) : (s.raise f).flag = s.flag := rfl
@[simp] theorem raise_mem (s : State) (f : Halt) : (s.raise f).mem = s.mem := rfl
@[simp] theorem raise_reg (s : State) (f : Halt) (r : Reg) : (s.raise f).reg r = s.reg r := by cases r <;> rfl

/-- Passing the operand byte writes MAR, ACC and IAR and nothing else. -/
theorem passOperand_eq (s : State) :
    s.passOperand = { s with mar := s.iar, acc := inc s.iar, iar := inc s.iar } := rfl

@[simp] theorem passOperand_mar (s : State) : s.passOperand.mar = s.iar := rfl
@[simp] theorem passOperand_acc (s : State) : s.passOperand.acc = inc s.iar := rfl
@[simp] theorem passOperand_iar (s : State) : s.passOperand.iar = inc s.iar := rfl
@[simp] theorem passOperand_ir (s : State) : s.passOperand.ir = s.ir := rfl
@[simp] theorem passOperand_bus (s : State) : s.passOperand.bus = s.bus := rfl
@[simp] theorem passOperand_flag (s : State) : s.passOperand.flag = s.flag := rfl
@[simp] theorem passOperand_halt (s : State) : s.passOperand.halt = s.halt := rfl
@[simp] theorem passOperand_mem (s : State) : s.passOperand.mem = s.mem := rfl
@[simp] theorem passOperand_reg (s : State) (r : Reg) : s.passOperand.reg r = s.reg r := by cases r <;> rfl

@[simp] theorem readMar_eq (s : State) : s.readMar = s.mem.read s.mar := rfl
@[simp] theorem writeMar_eq (s : State) (v : Byte) : s.writeMar v = s.setMem (s.mem.write s.mar v) := rfl

section
variable (op : AluOp) (ra rb : Reg) (s : State)

/-- The operands and the carry-in of an ALU-class evaluation (42_alu_class R85). -/
theorem aluClassEval_eq : aluClassEval op ra rb s = alu (s.reg ra) (s.reg rb) false op := rfl

/-- The stage writes ACC and FLAG and nothing else (42_alu_class R85). -/
theorem aluStage_eq :
    aluStage op ra rb s =
      { s with acc := (aluClassEval op ra rb s).y, flag := packFlags (aluClassEval op ra rb s) } := rfl

@[simp] theorem aluStage_acc : (aluStage op ra rb s).acc = (aluClassEval op ra rb s).y := rfl
@[simp] theorem aluStage_flag : (aluStage op ra rb s).flag = packFlags (aluClassEval op ra rb s) := rfl
@[simp] theorem aluStage_mar : (aluStage op ra rb s).mar = s.mar := rfl
@[simp] theorem aluStage_iar : (aluStage op ra rb s).iar = s.iar := rfl
@[simp] theorem aluStage_ir : (aluStage op ra rb s).ir = s.ir := rfl
@[simp] theorem aluStage_bus : (aluStage op ra rb s).bus = s.bus := rfl
@[simp] theorem aluStage_halt : (aluStage op ra rb s).halt = s.halt := rfl
@[simp] theorem aluStage_mem : (aluStage op ra rb s).mem = s.mem := rfl
@[simp] theorem aluStage_reg (r : Reg) : (aluStage op ra rb s).reg r = s.reg r := by cases r <;> rfl

/-- The commit is the stage and then the destination register (42_alu_class R85). -/
theorem aluCommit_eq :
    aluCommit op ra rb s = (aluStage op ra rb s).setReg rb (aluClassEval op ra rb s).y := rfl

end

/-- The slots JMPR can name: only R0's is a general register (44_jumps R110). -/
theorem slotRegister_jmprSlot (ra : Reg) :
    slotRegister (jmprSlot ra) = if ra = .r0 then some .r0 else none := by
  cases ra <;> decide

end Sys2Proof.Machine
end

