-- ==== Sys2Proof/Laws/PerInstr.lean ====
section
/-! SUPPORT. A statement about each instruction as bytes: its encoding has two bytes exactly when its first byte calls for
an operand byte (30_encoding R45, R48), and one byte otherwise. -/

namespace Sys2Proof.Laws.EncodedLength

/-- The encoding starts with a byte that says how many bytes follow it, and that many follow. -/
def Statement (i : Instr) : Prop :=
  ∃ ir rest, encode i = ir :: rest ∧ rest.length = (hasOperandByte ir).toNat

theorem add (ra rb : Reg) : Statement (.add ra rb) := ⟨_, _, rfl, by cases ra <;> cases rb <;> rfl⟩

theorem shr (ra rb : Reg) : Statement (.shr ra rb) := ⟨_, _, rfl, by cases ra <;> cases rb <;> rfl⟩

theorem shl (ra rb : Reg) : Statement (.shl ra rb) := ⟨_, _, rfl, by cases ra <;> cases rb <;> rfl⟩

theorem not (ra rb : Reg) : Statement (.not ra rb) := ⟨_, _, rfl, by cases ra <;> cases rb <;> rfl⟩

theorem and (ra rb : Reg) : Statement (.and ra rb) := ⟨_, _, rfl, by cases ra <;> cases rb <;> rfl⟩

theorem or (ra rb : Reg) : Statement (.or ra rb) := ⟨_, _, rfl, by cases ra <;> cases rb <;> rfl⟩

theorem xor (ra rb : Reg) : Statement (.xor ra rb) := ⟨_, _, rfl, by cases ra <;> cases rb <;> rfl⟩

theorem comp (ra rb : Reg) : Statement (.comp ra rb) := ⟨_, _, rfl, by cases ra <;> cases rb <;> rfl⟩

theorem load (ra rb : Reg) : Statement (.load ra rb) := ⟨_, _, rfl, by cases ra <;> cases rb <;> rfl⟩

theorem store (ra rb : Reg) : Statement (.store ra rb) := ⟨_, _, rfl, by cases ra <;> cases rb <;> rfl⟩

theorem data (ra : Reg) (n : Byte) : Statement (.data ra n) := ⟨_, _, rfl, by cases ra <;> rfl⟩

theorem jmpr (ra : Reg) : Statement (.jmpr ra) := ⟨_, _, rfl, by cases ra <;> rfl⟩

theorem jump (n : Byte) : Statement (.jump n) := ⟨_, _, rfl, rfl⟩

theorem jcaez (mask : BitVec 4) (n : Byte) : Statement (.jcaez mask n) :=
  ⟨_, _, rfl, by rw [hasOperandByte_jcaez]; rfl⟩

theorem clf : Statement .clf := ⟨_, _, rfl, rfl⟩

theorem illegal : Statement .illegal := ⟨_, _, rfl, rfl⟩

end Sys2Proof.Laws.EncodedLength
end

