-- ==== Sys2Proof/Laws/Step.lean ====
section
/-! SUPPORT. The step, said once: a running machine executes what it fetched, a halted one has no step. -/

namespace Sys2Proof.Machine

/-- A running machine's step (41_instruction_cycle R75). -/
theorem step_running {s : State} (h : s.halt = .running) : step s = exec (fetchedInstr s) (fetch s) := by
  simp [step, haltFault, h]

/-- A step that answers a next state ran in a running machine and is what `exec` answered. -/
theorem step_next {s t : State} (h : step s = .next t) :
    s.halt = .running ∧ exec (fetchedInstr s) (fetch s) = .next t := by
  cases hs : s.halt with
  | running => exact ⟨rfl, by rwa [step_running hs] at h⟩
  | invalidInstruction => simp [step, haltFault, hs] at h
  | invalidRegisterSlot => simp [step, haltFault, hs] at h

/-- The outcome of JMPR by register (44_jumps R110, R111). -/
theorem execJmpr_eq (ra : Reg) (s : State) :
    execJmpr ra s = if ra = .r0 then .next (s.setIar (s.reg .r0)) else .next (s.raise .invalidRegisterSlot) := by
  unfold execJmpr
  rw [slotRegister_jmprSlot]
  cases ra <;> rfl

end Sys2Proof.Machine
end

