-- ==== Sys2Proof/Tests/Slice0.lean ====
section
/-! SUPPORT. The model's own tests. Expected results are the spec's: its worked examples and the vectors of
95_test_vectors (ids V-…), or the encoding tables of 30_encoding. Each runs one step or one small operation. At the end,
for each statement with hypotheses, a witness that meets them. -/

namespace Sys2Proof.Tests

open Sys2Proof.Machine

/-- A state with these bytes loaded from address 0. -/
def withCode (code : List Byte) (s : State) : State := s.setMem (storeImage [] 0 code)

/-- What one step leaves of a state, where it answers a next state. -/
def afterStep {α : Type} (s : State) (view : State → α) : Option α :=
  match step s with
  | .next t => some (view t)
  | .fault _ => none
  | .refused _ => none

/-- HALT after one step on this instruction byte at address 0. -/
def haltAfter (ir : Byte) : Option Halt := afterStep (withCode [ir] State.reset) State.halt

/-- A state with a single byte at 255 and another at 0, about to fetch the first. -/
def atTop (ir operand : Byte) : State :=
  { State.reset with iar := 255, mem := (Memory.write [] 0 operand).write 255 ir }

/-! ## Well-formedness: each check refuses an ill-formed term -/

theorem test_wellFormed_refuses_illegal : Instr.illegal.wellFormed = false := by decide

theorem test_hasSpelling_refuses_empty_mask : (Instr.jcaez 0 5).hasSpelling = false ∧ (Instr.jcaez 0 5).wellFormed = true := by
  decide

theorem test_imageWellFormed_refuses_257_bytes :
    imageWellFormed (List.replicate 257 0) = false ∧ imageWellFormed (List.replicate 256 0) = true := by
  simp only [imageWellFormed, List.length_replicate]
  decide

theorem test_memory_wf_refuses_zero_cell : Memory.wf [(3, 0)] = false := by decide

theorem test_memory_wf_refuses_unordered_cells : Memory.wf [(4, 1), (3, 1)] = false := by decide

theorem test_memory_wf_refuses_address_256 : Memory.wf [(256, 1)] = false := by decide

/-! ## Decoding: words written out bit by bit from the table of 30_encoding R47 -/

theorem test_decode_add : decode [0b10000001] = .ok (.add .r0 .r1, []) := rfl
theorem test_decode_shr : decode [0b10010100] = .ok (.shr .r1 .r0, []) := rfl
theorem test_decode_shl : decode [0b10100100] = .ok (.shl .r1 .r0, []) := rfl
theorem test_decode_not : decode [0b10111011] = .ok (.not .r2 .r3, []) := rfl
theorem test_decode_and : decode [0b11000001] = .ok (.and .r0 .r1, []) := rfl
theorem test_decode_or : decode [0b11010001] = .ok (.or .r0 .r1, []) := rfl
theorem test_decode_xor : decode [0b11100101] = .ok (.xor .r1 .r1, []) := rfl
theorem test_decode_comp : decode [0b11110110] = .ok (.comp .r1 .r2, []) := rfl
theorem test_decode_load : decode [0b00000001] = .ok (.load .r0 .r1, []) := rfl
theorem test_decode_store : decode [0b00011001] = .ok (.store .r2 .r1, []) := rfl
theorem test_decode_data : decode [0b00100111, 9] = .ok (.data .r1 9, []) := rfl
theorem test_decode_jmpr : decode [0b00111100] = .ok (.jmpr .r3, []) := rfl
theorem test_decode_jump : decode [0b01000000, 8, 1] = .ok (.jump 8, [1]) := rfl
theorem test_decode_jcaez : decode [0b01011100, 0x80] = .ok (.jcaez 0b1100 0x80, []) := rfl
theorem test_decode_clf : decode [0b01101111] = .ok (.clf, []) := rfl
theorem test_decode_illegal : decode [0b01110000] = .ok (.illegal, []) := rfl
theorem test_decode_missing_bytes : decode [] = .error .noInstructionByte ∧ decode [0x20] = .error .noOperandByte := ⟨rfl, rfl⟩
theorem test_jumpMask : jumpMask true true false false = 0b1100 ∧ jumpMask false false false true = 0b0001 := by decide
theorem test_encode_words : encode (.jcaez 0b0110 0x80) = [0x56, 0x80] ∧ encode (.data .r3 255) = [0x2C, 0xFF] := by decide

/-! ## The ALU function alone: rows with carry-in 1 (V-F7, V-F12, V-F22, V-F27) -/

theorem test_alu_add_cin : alu 100 155 true .add = ⟨0, true, false, false⟩ := by decide
theorem test_alu_shr_cin : alu 3 0 true .shr = ⟨129, true, false, true⟩ := by decide
theorem test_alu_shl_cin : alu 255 0 true .shl = ⟨255, true, false, true⟩ := by decide
theorem test_alu_not_cin : alu 0x55 0x55 true .not = ⟨0xAA, false, true, false⟩ := by decide

/-! ## ALU-class instructions (V-A1 to V-A13) -/

theorem test_add_carry_flag_not_added :
    afterStep (withCode [0x81] { State.reset with r0 := 255, r1 := 1, flag := 0b1000 }) (fun t => (t.r1, t.acc, t.flag)) =
      some (0, 0, 0b1101) := by decide
theorem test_add_same_register :
    afterStep (withCode [0x80] { State.reset with r0 := 200 }) (fun t => (t.r0, t.acc, t.flag, t.iar)) =
      some (144, 144, 0b1010, 1) := by decide
theorem test_shr :
    afterStep (withCode [0x94] { State.reset with r1 := 3, r0 := 77 }) (fun t => (t.r0, t.r1, t.flag)) =
      some (1, 3, 0b1000) := by decide
theorem test_shl :
    afterStep (withCode [0xA4] { State.reset with r1 := 0x81, r0 := 77 }) (fun t => (t.r0, t.acc, t.flag)) =
      some (2, 2, 0b1100) := by decide
theorem test_not :
    afterStep (withCode [0xBB] { State.reset with r2 := 0x0F, r3 := 1 }) (fun t => (t.r3, t.flag)) =
      some (0xF0, 0b0100) := by decide
theorem test_and :
    afterStep (withCode [0xC1] { State.reset with r0 := 0xF0, r1 := 0x3C }) (fun t => (t.r1, t.flag)) =
      some (0x30, 0b0100) := by decide
theorem test_or :
    afterStep (withCode [0xD1] { State.reset with r0 := 0xF0, r1 := 0x0F }) (fun t => (t.r1, t.flag)) =
      some (0xFF, 0b0100) := by decide
theorem test_xor_self :
    afterStep (withCode [0xE5] { State.reset with r1 := 0x5A }) (fun t => (t.r1, t.acc, t.flag)) =
      some (0, 0, 0b0011) := by decide
theorem test_comp :
    afterStep (withCode [0xF1] { State.reset with r0 := 9, r1 := 7 }) (fun t => (t.r0, t.r1, t.acc, t.flag)) =
      some (9, 7, 0, 0b0101) := by decide

/-! ## LOAD, STORE, DATA (V-M1 to V-M10) -/

theorem test_load_same_register :
    afterStep { withCode [0x05] State.reset with r1 := 0x40, mem := [(0, 0x05), (0x40, 0x99)] }
      (fun t => (t.r1, t.mar, t.iar, t.acc)) = some (0x99, 0x40, 1, 1) := by decide
theorem test_load_of_reset_memory :
    afterStep State.reset (fun t => (t.r0, t.mar, t.iar)) = some (0, 0, 1) := by decide
theorem test_store_over_itself :
    afterStep (withCode [0x19] { State.reset with r1 := 6 }) (fun t => (t.mem, t.mar, t.ir)) =
      some ([(0, 6)], 0, 0x19) := by decide
theorem test_store_of_zero_unlists :
    afterStep (withCode [0x16, 0, 0, 0, 0, 0, 9] { State.reset with r1 := 6 }) (fun t => t.mem) =
      some [(0, 0x16)] := by decide
theorem test_data :
    afterStep (withCode [0x20, 5] State.reset) (fun t => (t.r0, t.mar, t.iar, t.acc, t.ir)) =
      some (5, 1, 2, 2, 0x20) := by decide
theorem test_data_at_255 :
    afterStep (atTop 0x24 0x77) (fun t => (t.r1, t.mar, t.iar, t.acc)) = some (0x77, 0, 1, 1) := by decide

/-! ## Jumps (V-J1 to V-J11) -/

theorem test_jmpr_r0 :
    afterStep (withCode [0x33] { State.reset with r0 := 9 }) (fun t => (t.iar, t.halt)) = some (9, .running) := by decide
theorem test_jmpr_r1_halts :
    afterStep (withCode [0x34] State.reset) (fun t => (t.halt, t.iar, t.mar, t.ir, t.acc)) =
      some (.invalidRegisterSlot, 1, 0, 0x34, 1) := by decide
theorem test_jump :
    afterStep (withCode [0x40, 8] State.reset) (fun t => (t.iar, t.mar, t.acc)) = some (8, 1, 1) := by decide
theorem test_jump_at_255 :
    afterStep (atTop 0x40 0x80) (fun t => (t.iar, t.mar, t.acc)) = some (0x80, 0, 0) := by decide
theorem test_jcaez_taken :
    afterStep (withCode [0x56, 0x80] { State.reset with flag := 0b0100 }) (fun t => (t.iar, t.mar, t.acc, t.flag)) =
      some (0x80, 1, 2, 0b0100) := by decide
theorem test_jcaez_not_taken :
    afterStep (withCode [0x5C, 0x80] { State.reset with flag := 0b0011 }) (fun t => (t.iar, t.mar, t.acc)) =
      some (2, 1, 2) := by decide

/-! ## CLF, faults, host (V-C1, V-X1, V-R1, V-R4, V-R5) -/

theorem test_clf :
    afterStep (withCode [0x60] { State.reset with flag := 0b1111 }) (fun t => (t.flag, t.iar, t.ir)) =
      some (0, 1, 0x60) := by decide
theorem test_illegal_halts :
    afterStep (withCode [0x70] State.reset) (fun t => (t.halt, t.iar, t.mar, t.ir, t.acc)) =
      some (.invalidInstruction, 1, 0, 0x70, 1) := by decide
theorem test_halt_at_the_edges_of_the_fault_ranges :
    [0x33, 0x34, 0x3F, 0x40, 0x6F, 0x70, 0x7F, 0x80].map haltAfter =
      [some .running, some .invalidRegisterSlot, some .invalidRegisterSlot, some .running, some .running,
        some .invalidInstruction, some .invalidInstruction, some .running] := by decide
theorem test_halted_has_no_step :
    step { State.reset with halt := .invalidInstruction } = .fault .haltedInvalidInstruction := rfl
theorem test_run_target_zero : driverRun 0 5 State.reset = ⟨.targetReached, State.reset, 0⟩ := by decide
theorem test_run_jumps_past_target : (driverRun 5 100 (withCode [0x40, 9] State.reset)).steps = 1 := by decide
theorem test_run_fails_on_illegal :
    (driverRun 10 5 (withCode [0x70] State.reset)).ending = .failed ∧
      finalImage (driverRun 10 5 (withCode [0x70] State.reset)) = none := by decide
theorem test_withFetchWord_runs_the_word :
    afterStep (State.reset.withFetchWord 16 0x0520) (fun t => (t.r0, t.iar)) = some (5, 2) := by decide
theorem test_decodeTableWord : decodeTableWord 8 0x94 = some (.shr .r1 .r0) ∧ decodeTableWord 8 0x20 = some (.data .r0 0) := by
  decide

/-- The target ends a run before the budget does: DATA R0,5 at 0 brings IAR to 2, the target. -/
theorem test_run_stops_at_the_first_target_boundary :
    (driverRun 2 5 (withCode [0x20, 5] State.reset)).ending = .targetReached ∧
      (driverRun 2 5 (withCode [0x20, 5] State.reset)).steps = 1 := by decide

/-! ## Witnesses: for each statement with hypotheses, data that meets them -/

/-- A STORE R1,R0 at address 0 whose address register holds 1: it writes the very next instruction byte, the CLF 0x60. -/
def storeNext : State := withCode [0x14] { State.reset with r0 := 0x60, r1 := 1 }

/-- A machine about to run this byte and operand with FLAG = 0b0101. -/
def running (ir operand : Byte) : State := withCode [ir, operand] { State.reset with r0 := 3, r1 := 9, flag := 0b0101 }

theorem test_witness_StepKeepsInvariant : ∃ t, State.reset.Inv ∧ step State.reset = .next t :=
  ⟨_, ⟨rfl, rfl, by decide, rfl⟩, rfl⟩

theorem test_witness_MemoryWriteSetsOneByte : (255 : Byte) ≠ 0 ∧ Memory.wf [(0, 7), (255, 1)] = true := by decide

theorem test_witness_EqualBytesAreEqualMemories :
    Memory.wf [(5, 7)] = true ∧ Memory.wf (Memory.write [] 5 7) = true ∧
      ∀ a : Byte, Memory.read [(5, 7)] a = (Memory.write [] 5 7).read a := ⟨rfl, rfl, fun _ => rfl⟩

theorem test_witness_OnlyStoreChangesMemory :
    ∃ t, step storeNext = .next t ∧ t.mem.read 1 ≠ storeNext.mem.read 1 := ⟨_, rfl, by decide⟩

theorem test_witness_StoreIsSeenByTheNextFetch :
    storeNext.Safe ∧ fetchedInstr storeNext = .store .r1 .r0 ∧ storeNext.reg .r1 = storeNext.iar + 1 := ⟨rfl, rfl, rfl⟩

theorem test_witness_AluShifts_and_Logic : 6 < 7 ∧ 7 < 8 ∧ (AluOp.comp = .not ∨ AluOp.comp = .comp) :=
  ⟨by decide, by decide, .inr rfl⟩

theorem test_witness_Length_two_bytes :
    [0x20, 0x4F, 0x50].all (fun ir : Byte =>
      !ir.getLsbD 7 && (ir.toNat / 16 % 8 == 2 || ir.toNat / 16 % 8 == 4 || ir.toNat / 16 % 8 == 5)) = true := by decide

theorem test_witness_Length_one_byte :
    [0x1F, 0x30, 0x60, 0x7F, 0xA0, 0xD0].all (fun ir : Byte =>
      !(!ir.getLsbD 7 && (ir.toNat / 16 % 8 == 2 || ir.toNat / 16 % 8 == 4 || ir.toNat / 16 % 8 == 5))) = true := by decide

theorem test_witness_EncodeOfDecodeIsTheBytes : decode [0x27, 9, 1] = .ok (.data .r1 9, [1]) := rfl

theorem test_witness_IgnoredBits_all_sixteen :
    (0x40 : Byte).toNat / 16 = (0x4F : Byte).toNat / 16 ∧ (0x40 : Byte).toNat / 16 = 4 ∧
      (0x60 : Byte).toNat / 16 = 6 ∧ (0x7F : Byte).toNat / 16 = 7 := by decide

theorem test_witness_IgnoredBits_four_each :
    (0x24 : Byte).toNat / 16 = 2 ∧ (0x24 : Byte).toNat / 4 % 4 = (0x27 : Byte).toNat / 4 % 4 ∧
      (0x3C : Byte).toNat / 16 = 3 ∧ (0x3C : Byte).toNat / 4 % 4 = (0x3F : Byte).toNat / 4 % 4 := by decide

theorem test_witness_StepRunsTheDecodedInstruction :
    (atTop 0x24 0x77).Safe ∧
      decode [(atTop 0x24 0x77).mem.read (atTop 0x24 0x77).iar, (atTop 0x24 0x77).mem.read ((atTop 0x24 0x77).iar + 1)] =
        .ok (.data .r1 0x77, []) := ⟨rfl, rfl⟩

theorem test_witness_HaltedMachineHasNoStep :
    (State.reset.raise .invalidInstruction).halt = .invalidInstruction ∧
      (State.reset.raise .invalidRegisterSlot).halt = .invalidRegisterSlot := ⟨rfl, rfl⟩

theorem test_witness_RunningMachineAlwaysSteps : (running 0x34 0).Safe := rfl

/-- Next states, for the statements whose hypothesis is that a step answers one: IarAfterEachInstruction, BusIsNeither…,
OnlyTheFaultBytesHalt, FlagWritersAndItsOneReader. -/
theorem test_witness_step_answers_next : ∃ t, step (running 0x81 0) = .next t := ⟨_, rfl⟩

theorem test_witness_FlagWriters_not_jcaez :
    ∃ t u, step (running 0x81 0) = .next t ∧ step ((running 0x81 0).setFlag 0b1000) = .next u ∧
      ∀ mask n, fetchedInstr (running 0x81 0) ≠ .jcaez mask n :=
  ⟨_, _, rfl, rfl, fun _ _ h => by cases h⟩

theorem test_witness_FlagWriters_jcaez :
    ∃ t u, step (running 0x54 0x80) = .next t ∧ step ((running 0x54 0x80).setFlag 0) = .next u ∧
      fetchedInstr (running 0x54 0x80) = .jcaez 0b0100 0x80 ∧ t.iar ≠ u.iar :=
  ⟨_, _, rfl, rfl, rfl, by decide⟩

theorem test_witness_FaultLeavesTheStateAfterTheFetch :
    ∃ t, step (running 0x7F 0) = .next t ∧ ¬ t.Safe := ⟨_, rfl, fun h => by cases h⟩

theorem test_witness_AluResults_same_register : (Reg.r3 = Reg.r3) ∧ (Reg.r0 ≠ Reg.r3) := by decide

theorem test_witness_CompResult_cases :
    State.reset.reg .r0 = State.reset.reg .r1 ∧ ((running 0 0).reg .r0).toNat < ((running 0 0).reg .r1).toNat := by decide

theorem test_witness_AluClassFrame :
    aluClassOf (.add .r0 .r1) = some (.add, .r0, .r1) ∧ aluClassOf (.comp .r2 .r2) = some (.comp, .r2, .r2) := ⟨rfl, rfl⟩

theorem test_witness_AluOperandRoles :
    ∃ t, step (running 0xB1 0) = .next t ∧ ((running 0xB1 0).mem.read (running 0xB1 0).iar).getLsbD 7 = true ∧
      ((running 0xB1 0).mem.read (running 0xB1 0).iar).toNat / 16 = 11 ∧
      raField ((running 0xB1 0).mem.read (running 0xB1 0).iar) ≠ rbField ((running 0xB1 0).mem.read (running 0xB1 0).iar) :=
  ⟨_, rfl, by decide, by decide, by decide⟩

/-- COPY R0,R1 and, on one register, COPY R2,R2, each in a running machine's memory; the second one's bytes stand at 255
and 0. -/
theorem test_witness_CopyMacroCopies :
    ((running 0xE5 0x81).Safe ∧ Reg.r0 ≠ Reg.r1 ∧
      [(running 0xE5 0x81).mem.read (running 0xE5 0x81).iar, (running 0xE5 0x81).mem.read ((running 0xE5 0x81).iar + 1)] =
        (copyMacro .r0 .r1).flatMap encode) ∧
    (atTop 0xEA 0x8A).Safe ∧
      [(atTop 0xEA 0x8A).mem.read (atTop 0xEA 0x8A).iar, (atTop 0xEA 0x8A).mem.read ((atTop 0xEA 0x8A).iar + 1)] =
        (copyMacro .r2 .r2).flatMap encode := ⟨⟨rfl, by decide, rfl⟩, rfl, rfl⟩

theorem test_witness_LoadStoreDataFrame : effectiveAddress storeNext .r1 = 1 ∧ (0 : Byte) ≠ 1 := by decide

theorem test_witness_DataStep : (atTop 0x27 1).Safe ∧ ((atTop 0x27 1).mem.read (atTop 0x27 1).iar).toNat / 16 = 2 :=
  ⟨rfl, by decide⟩

theorem test_witness_JmprOtherSlotHalts : Reg.r1 ≠ Reg.r0 := by decide

theorem test_witness_JumpStep : (atTop 0x4F 1).Safe ∧ ((atTop 0x4F 1).mem.read (atTop 0x4F 1).iar).toNat / 16 = 4 :=
  ⟨rfl, by decide⟩

/-- The mask's two ends meet FLAG's Z and C, and a mask that meets no set flag. -/
theorem test_witness_JcaezResult :
    (∃ k, k < 4 ∧ (0b1000 : BitVec 4).getLsbD k = true ∧ (0b1000 : Byte).getLsbD k = true) ∧
      (∃ k, k < 4 ∧ (0b0001 : BitVec 4).getLsbD k = true ∧ (0b0001 : Byte).getLsbD k = true) ∧
      ∀ k, k < 4 → (0b1100 : BitVec 4).getLsbD k = true → (0b0011 : Byte).getLsbD k = false :=
  ⟨⟨3, by decide⟩, ⟨0, by decide⟩, by decide⟩

theorem test_witness_JcaezStep :
    (running 0x54 0x80).Safe ∧ ((running 0x54 0x80).mem.read (running 0x54 0x80).iar).toNat / 16 = 5 ∧
      (∃ k, k < 4 ∧ ((running 0x54 0x80).mem.read (running 0x54 0x80).iar).getLsbD k = true ∧
        (running 0x54 0x80).flag.getLsbD k = true) ∧
      ∀ k, k < 4 → ((running 0x5A 0x80).mem.read (running 0x5A 0x80).iar).getLsbD k = true →
        (running 0x5A 0x80).flag.getLsbD k = false :=
  ⟨rfl, by decide, ⟨2, by decide⟩, by decide⟩

theorem test_witness_JumpsFrame : (∃ ra, Instr.jmpr .r0 = .jmpr ra) ∧ (∃ mask n, Instr.jcaez 0 5 = .jcaez mask n) :=
  ⟨⟨_, rfl⟩, ⟨_, _, rfl⟩⟩

theorem test_witness_LoadedImage :
    (List.replicate 256 (7 : Byte)).length ≤ 256 ∧ 256 < (List.replicate 257 (7 : Byte)).length := by
  simp only [List.length_replicate]
  decide

/-- One step of reset memory below the target 2. -/
theorem test_witness_RunIsStepAppliedBudgetTimes :
    ∃ t, stepTimes 1 State.reset = .next t ∧
      ∀ (k : Nat) (u : State), k < 1 → stepTimes k State.reset = .next u → u.Safe ∧ u.iar.toNat < 2 := by
  refine ⟨_, rfl, fun k u hk hu => ?_⟩
  obtain rfl : k = 0 := by omega
  cases hu
  exact ⟨rfl, by decide⟩

/-- A run of one step, and the boundary before it. -/
theorem test_witness_RunEndsInOneOfThreeWays :
    0 < (driverRun 2 5 (withCode [0x20, 5] State.reset)).steps ∧
      ∃ u, stepTimes 0 (withCode [0x20, 5] State.reset) = .next u := ⟨by decide, _, rfl⟩

end Sys2Proof.Tests
end

section
/-! PROOF. FLAG as a number: the weights of the four packed bits (10_state R17). -/

namespace Sys2Proof.Machine

/-- The four weighted bits sum to at most 15, so packing them into a byte does not wrap. -/
theorem packFlags_toNat (r : AluOut) : (packFlags r).toNat =
    (decide (r.y = 0)).toNat + 2 * r.eq.toNat + 4 * r.gt.toNat + 8 * r.cout.toNat := by
  have hz := Bool.toNat_le (decide (r.y = 0))
  have he := Bool.toNat_le r.eq
  have ha := Bool.toNat_le r.gt
  have hc := Bool.toNat_le r.cout
  rw [packFlags, BitVec.toNat_ofNat, Nat.mod_eq_of_lt (by omega)]

/-- Settles O15: the packed value is the weighted sum, and its zero bit is 1 exactly when the result is 0. -/
theorem packFlagsWeighsTheBits : Obligations.PackFlagsWeighsTheBits := by
  unfold Obligations.PackFlagsWeighsTheBits
  intro r
  rw [packFlags_toNat, Bool.toNat, Bool.cond_decide]

end Sys2Proof.Machine
end

section
/-! PROOF. What a memory write changes, byte by byte and as data (20_memory R30, R32). The data clause goes through the
bytes: canonical memories that read alike are equal, and writing a byte already present changes no byte. -/

namespace Sys2Proof.Machine

/-- The byte written reads back. -/
@[simp] theorem read_write_same (m : Memory) (a v : Byte) : (m.write a v).read a = v := by
  unfold Memory.write
  split
  case isTrue hv => exact (lookup_erase_same m a.toNat).trans hv.symm
  case isFalse => exact lookup_place_same m a.toNat v

/-- No other byte is changed. -/
theorem read_write_other (m : Memory) {a b : Byte} (v : Byte) (hab : b ≠ a) : (m.write a v).read b = m.read b := by
  have hne : b.toNat ≠ a.toNat := fun h => hab (BitVec.eq_of_toNat_eq h)
  unfold Memory.write
  split
  · exact lookup_erase_other m hne
  · exact (lookup_place_other _ v hne).trans (lookup_erase_other m hne)

theorem wfFrom_cons_iff {lo k : Nat} {v : Byte} {rest : Memory} :
    Memory.wfFrom lo ((k, v) :: rest) = true ↔
      lo ≤ k ∧ k < Config.memorySize ∧ v ≠ 0#8 ∧ Memory.wfFrom (k + 1) rest = true := by
  simp [Memory.wfFrom, and_assoc]

/-- Canonical cells are canonical from their own first address on. -/
theorem wfFrom_at_first {lo k : Nat} {v : Byte} {rest : Memory} (h : Memory.wfFrom lo ((k, v) :: rest) = true) :
    Memory.wfFrom k ((k, v) :: rest) = true :=
  wfFrom_cons_iff.mpr ⟨le_refl k, (wfFrom_cons_iff.mp h).2⟩

@[simp] theorem lookup_cons_head (k : Nat) (v : Byte) (rest : Memory) : Memory.lookup ((k, v) :: rest) k = v :=
  if_pos rfl

theorem lookup_cons_other {k a : Nat} (v : Byte) (rest : Memory) (h : k ≠ a) :
    Memory.lookup ((k, v) :: rest) a = Memory.lookup rest a := if_neg h

/-- Canonical cells from `lo` on hold nothing below `lo`. -/
theorem lookup_eq_zero_of_lt {m : Memory} {lo a : Nat} (h : Memory.wfFrom lo m = true) (ha : a < lo) :
    Memory.lookup m a = 0#8 := by
  induction m generalizing lo with
  | nil => rfl
  | cons c rest ih =>
    obtain ⟨k, v⟩ := c
    obtain ⟨hk, -, -, hrest⟩ := wfFrom_cons_iff.mp h
    rw [lookup_cons_other v rest (by omega)]
    exact ih hrest (by omega)

/-- A canonical memory's first cell stands no lower than `lo` when another, canonical from `lo` on, reads alike. -/
theorem le_first_of_lookup_eq {m rest : Memory} {lo lo' k : Nat} {v : Byte} (hm : Memory.wfFrom lo m = true)
    (hn : Memory.wfFrom lo' ((k, v) :: rest) = true)
    (h : ∀ a < Config.memorySize, Memory.lookup m a = Memory.lookup ((k, v) :: rest) a) : lo ≤ k := by
  obtain ⟨-, hk, hv, -⟩ := wfFrom_cons_iff.mp hn
  by_contra hlt
  have hz : Memory.lookup m k = 0#8 := lookup_eq_zero_of_lt hm (by omega)
  exact hv (by rw [← hz, h k hk, lookup_cons_head])

/-- Canonical cells are determined by what is found at each address. -/
theorem wfFrom_ext {m n : Memory} {lo lo' : Nat} (hm : Memory.wfFrom lo m = true) (hn : Memory.wfFrom lo' n = true)
    (h : ∀ a < Config.memorySize, Memory.lookup m a = Memory.lookup n a) : m = n := by
  induction m generalizing n lo lo' with
  | nil =>
    cases n with
    | nil => rfl
    | cons c rest =>
      have hle := le_first_of_lookup_eq (lo := c.1 + 1) (m := []) rfl hn h
      omega
  | cons c rest ih =>
    obtain ⟨k, v⟩ := c
    obtain ⟨-, hk, -, hrest⟩ := wfFrom_cons_iff.mp hm
    cases n with
    | nil =>
      have hle := le_first_of_lookup_eq (lo := k + 1) (m := []) rfl hm fun a ha => (h a ha).symm
      omega
    | cons d rest' =>
      obtain ⟨l, w⟩ := d
      obtain ⟨-, -, -, hrest'⟩ := wfFrom_cons_iff.mp hn
      have hkl : k ≤ l := le_first_of_lookup_eq (wfFrom_at_first hm) hn h
      have hlk : l ≤ k := le_first_of_lookup_eq (wfFrom_at_first hn) hm fun a ha => (h a ha).symm
      obtain rfl : k = l := le_antisymm hkl hlk
      obtain rfl : v = w := by simpa using h k hk
      have hrests : rest = rest' := ih hrest hrest' fun a ha => by
        by_cases hka : k = a
        · rw [lookup_eq_zero_of_lt hrest (by omega), lookup_eq_zero_of_lt hrest' (by omega)]
        · simpa [lookup_cons_other, hka] using h a ha
      rw [hrests]

/-- Canonical memories that read alike are equal data (R30). -/
theorem eq_of_read_eq {m n : Memory} (hm : m.wf = true) (hn : n.wf = true) (h : ∀ a : Byte, m.read a = n.read a) :
    m = n :=
  wfFrom_ext hm hn fun a ha => h (BitVec.ofNatLT a ha)

/-- Writing the byte already present leaves a canonical memory the same data. -/
theorem write_read_self {m : Memory} (a : Byte) (h : m.wf = true) : m.write a (m.read a) = m := by
  refine eq_of_read_eq (write_keeps_wf a _ h) h fun b => ?_
  by_cases hba : b = a
  · rw [hba, read_write_same]
  · exact read_write_other m _ hba

/-- Settles O6: the read-after-write rules at the written address and at every other, and the rewrite of a present byte. -/
theorem memoryWriteSetsOneByte : Obligations.MemoryWriteSetsOneByte := fun m a v =>
  ⟨read_write_same m a v, fun _ => read_write_other m v, write_read_self a⟩

end Sys2Proof.Machine
end

section
/-! PROOF. The length of an instruction from its first byte (30_encoding R48): the decoder's test in the words of the rule,
then what the decoder answers on each side of it. -/

namespace Sys2Proof.Machine

/-- The code field as a number: bits 6..4 of the byte (30_encoding R46). -/
theorem codeField_toNat (ir : Byte) : (codeField ir).toNat = ir.toNat / 16 % 8 := by
  simp [codeField, BitVec.extractLsb'_toNat, Nat.shiftRight_eq_div_pow]

theorem codeField_eq_iff (ir : Byte) (k : BitVec 3) : codeField ir = k ↔ ir.toNat / 16 % 8 = k.toNat := by
  rw [← codeField_toNat, BitVec.toNat_inj]

/-- The decoder's test for an operand byte is R48's: bit 7 is 0 and bits 6..4 are 2, 4 or 5. -/
theorem hasOperandByte_iff (ir : Byte) : hasOperandByte ir = true ↔
    ir.getLsbD 7 = false ∧ (ir.toNat / 16 % 8 = 2 ∨ ir.toNat / 16 % 8 = 4 ∨ ir.toNat / 16 % 8 = 5) := by
  simp [hasOperandByte, clsField, codeField_eq_iff, or_assoc]

/-- A two-byte instruction's first byte alone is refused. -/
theorem decode_operand_missing {ir : Byte} (h : hasOperandByte ir = true) : decode [ir] = .error .noOperandByte :=
  if_pos h

/-- Settles O18: R48's condition is the decoder's own test, and each of its two values fixes how many bytes are taken. -/
theorem lengthIsReadFromTheInstructionByte : Obligations.LengthIsReadFromTheInstructionByte := by
  unfold Obligations.LengthIsReadFromTheInstructionByte
  refine ⟨rfl, fun ir => ?_⟩
  rw [← hasOperandByte_iff]
  constructor
  case left => exact fun two => ⟨decode_operand_missing two, fun n rest => ⟨_, decode_two n rest two⟩⟩
  case right => exact fun one rest => ⟨_, decode_one rest (Bool.eq_false_of_not_eq_true one)⟩

end Sys2Proof.Machine
end

section
/-! PROOF. The ALU's comparison and its two shifts (40_alu R60, R62, R63). The result of a shift is the carry-in put at
one end of seven bits of a; its bits are read off that form, its number off the model's own. -/

namespace Sys2Proof.Machine

/-- The halved byte leaves room for the carry-in at weight 128, so the result does not wrap. -/
theorem aluResult_shr_toNat (a b : Byte) (cin : Bool) :
    (aluResult a b cin .shr).toNat = a.toNat / 2 + 128 * cin.toNat := by
  have hc := Bool.toNat_le cin
  rw [aluResult, BitVec.toNat_ofNat, Nat.mod_eq_of_lt (by omega)]

/-- The doubled byte without its old bit 7 is even, so the carry-in fits into bit 0. -/
theorem aluResult_shl_toNat (a b : Byte) (cin : Bool) :
    (aluResult a b cin .shl).toNat = 2 * a.toNat % 256 + cin.toNat := by
  have hc := Bool.toNat_le cin
  rw [aluResult, BitVec.toNat_ofNat, Nat.mul_comm, Nat.mod_eq_of_lt (by omega)]

/-- SHR keeps the seven upper bits of a, one place lower, under the carry-in. -/
theorem aluResult_shr_eq_cons (a b : Byte) (cin : Bool) :
    aluResult a b cin .shr = BitVec.cons cin (a.extractLsb' 1 7) := by
  apply BitVec.eq_of_toNat_eq
  rw [aluResult_shr_toNat, BitVec.toNat_cons', BitVec.extractLsb'_toNat, Nat.shiftLeft_eq, Nat.shiftRight_eq_div_pow]
  omega

/-- SHL keeps the seven lower bits of a, one place higher, above the carry-in. -/
theorem aluResult_shl_eq_concat (a b : Byte) (cin : Bool) :
    aluResult a b cin .shl = BitVec.concat (a.setWidth 7) cin := by
  apply BitVec.eq_of_toNat_eq
  rw [aluResult_shl_toNat, BitVec.toNat_concat, BitVec.toNat_setWidth]
  omega

/-- The bit SHL shifts out is set exactly when the doubled byte exceeds 255. -/
theorem aluCarryOut_shl (a b : Byte) (cin : Bool) : aluCarryOut a b cin .shl = decide (128 ≤ a.toNat) :=
  decide_eq_decide.mpr (by omega)

/-- Settles O12: the bits are those of the carry-in put over a's seven upper bits, the number is the model's own sum. -/
theorem aluShrShiftsRight : Obligations.AluShrShiftsRight := by
  unfold Obligations.AluShrShiftsRight
  intro a b cin
  refine ⟨fun k hk => ?_, ?_, rfl, aluResult_shr_toNat a b cin⟩
  · rw [alu_y, aluResult_shr_eq_cons, BitVec.getLsbD_cons]
    simp [hk, hk.ne, Nat.add_comm]
  · rw [alu_y, aluResult_shr_eq_cons, BitVec.getLsbD_cons, if_pos rfl]

/-- Settles O13: the bits are those of a's seven lower bits put over the carry-in; the bit shifted out is a's top bit,
which is set from 128 on. -/
theorem aluShlShiftsLeft : Obligations.AluShlShiftsLeft := by
  unfold Obligations.AluShlShiftsLeft
  intro a b cin
  have hcout : (alu a b cin .shl).cout = decide (128 ≤ a.toNat) := aluCarryOut_shl a b cin
  refine ⟨fun k hk => ?_, ?_, ?_, ?_, aluResult_shl_toNat a b cin⟩
  · rw [alu_y, aluResult_shl_eq_concat, BitVec.getLsbD_concat_succ, BitVec.getLsbD_setWidth]
    simp [hk]
  · rw [alu_y, aluResult_shl_eq_concat, BitVec.getLsbD_concat_zero]
  · exact hcout.trans (BitVec.msb_eq_decide a).symm
  · rw [hcout, decide_eq_true_iff]

/-- Settles O10: no opcode enters the comparison, and the three orders of two bytes exclude each other. -/
theorem aluComparesWhateverTheOpcode : Obligations.AluComparesWhateverTheOpcode := by
  unfold Obligations.AluComparesWhateverTheOpcode
  intro a b cin op
  have hab : a = b ↔ a.toNat = b.toNat := BitVec.toNat_inj.symm
  refine ⟨decide_eq_true_iff, decide_eq_true_iff, ?_, ?_⟩
  · rw [alu_eq, alu_gt, decide_eq_true_iff, decide_eq_true_iff, hab]
    omega
  · rw [alu_eq, alu_gt, decide_eq_false_iff_not, decide_eq_false_iff_not, hab]
    omega

end Sys2Proof.Machine
end

section
/-! PROOF. The ALU class as one instruction form (42_alu_class R85, R94): an instruction byte with bit 7 set selects an
opcode and two registers, and each of the eight instructions leaves the one state named here. A step then runs it on the
state after the fetch. -/

namespace Sys2Proof.Machine

/-- The 3-bit opcode of an ALU operation, as 40_alu R61 to R68 number them. -/
def AluOp.code : AluOp → BitVec 3
  | .add => 0
  | .shr => 1
  | .shl => 2
  | .not => 3
  | .and => 4
  | .or => 5
  | .xor => 6
  | .comp => 7

/-- There is no unused opcode (R69). -/
theorem exists_aluOp_of_code (k : BitVec 3) : ∃ op : AluOp, k = op.code := by
  have hmem : k ∈ [AluOp.add, .shr, .shl, .not, .and, .or, .xor, .comp].map AluOp.code := by
    revert k
    decide
  obtain ⟨op, -, hop⟩ := List.mem_map.mp hmem
  exact ⟨op, hop.symm⟩

/-- The decoder reads an ALU-class byte by its fields: the opcode from bits 6..4, the registers from bits 3..0. -/
theorem aluClassOf_instrOf {ir : Byte} {op : AluOp} (n : Byte) (hcls : ir.getLsbD 7 = true)
    (hop : codeField ir = op.code) : aluClassOf (instrOf ir n) = some (op, raField ir, rbField ir) := by
  have hclass : clsField ir = true := hcls
  cases op <;> simp [instrOf, decoder, hclass, hop, AluOp.code, aluClassOf]

/-- The ALU-class rows of the opcode map are 8 to 15, in the order of the opcodes (30_encoding R47). -/
theorem aluClass_row {ir : Byte} {op : AluOp} (hcls : ir.getLsbD 7 = true) (hop : codeField ir = op.code) :
    ir.toNat / 16 = 8 + op.code.toNat := by
  have hmsb : 128 ≤ ir.toNat := by simpa [BitVec.msb_eq_decide] using (show ir.msb = true from hcls)
  have hcode := (codeField_eq_iff ir op.code).mp hop
  omega

/-- The results of SHR, SHL and NOT, opcodes 1 to 3, do not depend on operand B. -/
theorem aluResult_oneOperand {op : AluOp} (h : 1 ≤ op.code.toNat ∧ op.code.toNat ≤ 3) (a b b' : Byte) (cin : Bool) :
    aluResult a b cin op = aluResult a b' cin op := by
  cases op with
  | shr | shl | not => rfl
  | add | and | or | xor | comp => exact absurd h (by decide)

/-- What an ALU-class instruction leaves: COMP stops at ACC and FLAG, the others go on to the destination. -/
def aluClassNext (op : AluOp) (ra rb : Reg) (s : State) : State :=
  if op = .comp then aluStage op ra rb s else aluCommit op ra rb s

theorem exec_aluClass {i : Instr} {op : AluOp} {ra rb : Reg} (hi : aluClassOf i = some (op, ra, rb)) (s : State) :
    exec i s = .next (aluClassNext op ra rb s) := by
  cases i <;> cases hi <;> rfl

section
variable (op : AluOp) (ra rb : Reg) (s : State)

@[simp] theorem aluClassNext_acc :
    (aluClassNext op ra rb s).acc = aluResult (s.reg ra) (s.reg rb) false op := by
  unfold aluClassNext
  split <;> simp [aluCommit_eq, aluClassEval_eq]

@[simp] theorem aluClassNext_flag :
    (aluClassNext op ra rb s).flag = packFlags (alu (s.reg ra) (s.reg rb) false op) := by
  unfold aluClassNext
  split <;> simp [aluCommit_eq, aluClassEval_eq]

/-- Only the destination is written, and by COMP not even that. -/
@[simp] theorem aluClassNext_reg (r : Reg) :
    (aluClassNext op ra rb s).reg r =
      if r = rb ∧ op ≠ .comp then aluResult (s.reg ra) (s.reg rb) false op else s.reg r := by
  unfold aluClassNext
  split <;> simp [aluCommit_eq, aluClassEval_eq, *]

end

/-- A running machine's step on an ALU-class instruction. -/
theorem step_aluClass {s : State} {op : AluOp} {ra rb : Reg} (hrun : s.halt = .running)
    (hi : aluClassOf (fetchedInstr s) = some (op, ra, rb)) : step s = .next (aluClassNext op ra rb (fetch s)) :=
  (step_running hrun).trans (exec_aluClass hi _)

/-- Which instruction is fetched does not depend on the general registers. -/
theorem fetchedInstr_setReg (s : State) (d : Reg) (v : Byte) : fetchedInstr (s.setReg d v) = fetchedInstr s := by
  simp [fetchedInstr]

/-- SHR, SHL and NOT with distinct registers leave the same registers whatever the destination held. -/
theorem aluClassNext_setReg_sameRegs {op : AluOp} {ra rb : Reg} (hop : 1 ≤ op.code.toNat ∧ op.code.toNat ≤ 3)
    (hne : ra ≠ rb) (s : State) (v : Byte) :
    SameRegs (aluClassNext op ra rb (fetch s)) (aluClassNext op ra rb (fetch (s.setReg rb v))) := by
  have hcomp : op ≠ .comp := by
    rintro rfl
    exact absurd hop (by decide)
  intro r
  by_cases hr : r = rb
  · simpa [hr, hne, hcomp] using aluResult_oneOperand hop (s.reg ra) v (s.reg rb) false
  · simp [hr]

/-- Settles O42: the step leaves the ALU-class state of the byte's three fields; FLAG's E and A are the ALU's comparison of
the two registers, and the last clause compares the two runs register by register. -/
theorem aluOperandRoles : Obligations.AluOperandRoles := by
  unfold Obligations.AluOperandRoles
  intro s t hstep hcls
  obtain ⟨hrun, -⟩ := step_next hstep
  obtain ⟨op, hop⟩ := exists_aluOp_of_code (codeField (s.mem.read s.iar))
  have hrow := aluClass_row hcls hop
  have hi : aluClassOf (fetchedInstr s) = some (op, _, _) := aluClassOf_instrOf _ hcls hop
  obtain rfl : _ = t := Host.Outcome.next.inj ((step_aluClass hrun hi).symm.trans hstep)
  refine ⟨⟨?equal, ?larger, ?frame⟩, ?destination, ?oneOperand⟩
  case equal => simp
  case larger => simp
  case frame => exact fun r hr => by simp [hr]
  case destination =>
    intro hlt
    have hcomp : op ≠ .comp := by
      rintro rfl
      rw [hrow] at hlt
      exact absurd hlt (by decide)
    simp [hcomp]
  case oneOperand =>
    intro hrows hne v
    exact ⟨_, step_aluClass ((setReg_halt s _ v).trans hrun) (by rwa [fetchedInstr_setReg]),
      aluClassNext_setReg_sameRegs (by omega) hne s v⟩

end Sys2Proof.Machine
end

section
/-! PROOF. LOAD and STORE (43_load_store_data R100, R101): how their register byte decodes, and the one state each
leaves. Both take the address from the register of bits 3..2, before anything is written. -/

namespace Sys2Proof

/-- A register byte as a number: its row and its two fields at their weights (30_encoding R46). -/
theorem byteOfRegs_eq_ofNat : ∀ (row : BitVec 4) (a b : BitVec 2),
    byteOfRegs row a b = BitVec.ofNat 8 (16 * row.toNat + 4 * a.toNat + b.toNat) := by decide

/-- The decoder's fields of a register byte are the parts it was put together from (30_encoding R46). -/
@[simp] theorem fields_byteOfRegs : ∀ (row : BitVec 4) (a b : BitVec 2),
    clsField (byteOfRegs row a b) = row.msb ∧ codeField (byteOfRegs row a b) = row.setWidth 3 ∧
    raField (byteOfRegs row a b) = Reg.ofNum a ∧ rbField (byteOfRegs row a b) = Reg.ofNum b := by decide

theorem decode_load (ra rb : Reg) (rest : List Byte) :
    decode (byteOfRegs 0b0000 ra.num rb.num :: rest) = .ok (.load ra rb, rest) := by
  rw [decode_one rest (by simp [hasOperandByte])]
  simp [instrOf, decoder]

theorem decode_store (ra rb : Reg) (rest : List Byte) :
    decode (byteOfRegs 0b0001 ra.num rb.num :: rest) = .ok (.store ra rb, rest) := by
  rw [decode_one rest (by simp [hasOperandByte])]
  simp [instrOf, decoder]

end Sys2Proof

namespace Sys2Proof.Machine

/-- What LOAD leaves: the address in MAR and the byte there in the destination. -/
def afterLoad (ra rb : Reg) (s : State) : State := (s.setMar (s.reg ra)).setReg rb (s.mem.read (s.reg ra))

/-- What STORE leaves: the address in MAR and the data register's byte there. -/
def afterStore (ra rb : Reg) (s : State) : State := (s.setMar (s.reg ra)).setMem (s.mem.write (s.reg ra) (s.reg rb))

theorem exec_load (ra rb : Reg) (s : State) : exec (.load ra rb) s = .next (afterLoad ra rb s) := rfl

theorem exec_store (ra rb : Reg) (s : State) : exec (.store ra rb) s = .next (afterStore ra rb s) := by
  simp [exec, execStore, afterStore, effectiveAddress]

/-- Only the destination changes, so the address register keeps its value unless it is the destination. -/
@[simp] theorem afterLoad_reg (ra rb r : Reg) (s : State) :
    (afterLoad ra rb s).reg r = if r = rb then s.mem.read (s.reg ra) else s.reg r := by
  simp [afterLoad]

/-- Settles O44: the state LOAD leaves, read field by field. -/
theorem loadResult : Obligations.LoadResult := by
  unfold Obligations.LoadResult
  intro ra rb s
  refine ⟨afterLoad ra rb s, exec_load ra rb s, ?mar, ?destination, ?address, ?flag, ?iar, ?acc, ?encoding⟩
  case mar | flag | iar | acc => simp [afterLoad]
  case destination => rw [afterLoad_reg, if_pos rfl]
  case address => exact fun hne => by rw [afterLoad_reg, if_neg hne]
  case encoding => exact byteOfRegs_eq_ofNat 0b0000 ra.num rb.num ▸ decode_load ra rb []

/-- Settles O45: STORE is one memory write at the address register's byte, and writes no register but MAR. -/
theorem storeResult : Obligations.StoreResult := by
  unfold Obligations.StoreResult
  intro ra rb s
  refine ⟨afterStore ra rb s, exec_store ra rb s, ?mar, ?written, ?others, ?registers, ?flag, ?encoding⟩
  case mar | flag => simp [afterStore]
  case written => exact read_write_same s.mem (s.reg ra) (s.reg rb)
  case others => exact fun b hb => read_write_other s.mem (s.reg rb) hb
  case registers => exact fun r => by simp [afterStore]
  case encoding => exact byteOfRegs_eq_ofNat 0b0001 ra.num rb.num ▸ decode_store ra rb []

end Sys2Proof.Machine
end

section
/-! PROOF. The opcode map (30_encoding R46, R47): the row of an instruction byte is its upper four bits, and the encoder
puts a byte together from the fields the decoder takes it apart into. Decoding after encoding and encoding after decoding
both go through the map. -/

namespace Sys2Proof.Machine

/-! ## The fields as numbers -/

theorem clsField_toNat (ir : Byte) : (clsField ir).toNat = ir.toNat / 128 := by
  have hlt := ir.isLt
  have hmsb : clsField ir = decide (128 ≤ ir.toNat) := BitVec.msb_eq_decide ir
  rw [hmsb, Bool.toNat, Bool.cond_decide]
  split <;> omega

@[simp] theorem raField_num (ir : Byte) : (raField ir).num = ir.extractLsb' 2 2 := num_ofNum _

@[simp] theorem rbField_num (ir : Byte) : (rbField ir).num = ir.extractLsb' 0 2 := num_ofNum _

theorem raField_num_toNat (ir : Byte) : (raField ir).num.toNat = ir.toNat / 4 % 4 := by
  simp [BitVec.extractLsb'_toNat, Nat.shiftRight_eq_div_pow]

theorem rbField_num_toNat (ir : Byte) : (rbField ir).num.toNat = ir.toNat % 4 := by
  simp [BitVec.extractLsb'_toNat]

theorem maskField_toNat (ir : Byte) : (maskField ir).toNat = ir.toNat % 16 := by
  simp [maskField, BitVec.extractLsb'_toNat]

/-- JMPR's unshifted select keeps bits 3..2 of the byte in their places (44_jumps R110). -/
theorem jmprSlot_raField : ∀ ir : Byte, (jmprSlot (raField ir)).toNat = (ir &&& 0b1100).toNat := by decide

/-- Settles O16: each field is the quotient and remainder that its bits cut out of the byte. -/
theorem fieldsOfTheInstructionByte : Obligations.FieldsOfTheInstructionByte := fun ir =>
  ⟨clsField_toNat ir, codeField_toNat ir, raField_num_toNat ir, rbField_num_toNat ir, maskField_toNat ir,
    jmprSlot_raField ir⟩

/-! ## The decoder is the map -/

/-- The row of a byte, bits 7..4, is its class bit above its code. -/
theorem row_eq_of_fields (ir : Byte) : ir.toNat / 16 = 8 * (clsField ir).toNat + (codeField ir).toNat := by
  have hlt := ir.isLt
  rw [clsField_toNat, codeField_toNat]
  omega

/-- The decoder's answer and its test for an operand byte are those of the byte's row (R47, R48). -/
theorem opcodeMap_row (ir n : Byte) :
    opcodeMap (ir.toNat / 16) (raField ir) (rbField ir) (maskField ir) n = (instrOf ir n, hasOperandByte ir) := by
  rw [row_eq_of_fields]
  unfold instrOf decoder hasOperandByte
  dsimp only
  generalize clsField ir = cls
  obtain ⟨op, hop⟩ := exists_aluOp_of_code (codeField ir)
  rw [hop]
  cases cls <;> cases op <;> rfl

theorem instrOf_eq_opcodeMap (ir n : Byte) :
    instrOf ir n = (opcodeMap (ir.toNat / 16) (raField ir) (rbField ir) (maskField ir) n).1 := by
  rw [opcodeMap_row]

theorem hasOperandByte_eq_opcodeMap (ir n : Byte) :
    hasOperandByte ir = (opcodeMap (ir.toNat / 16) (raField ir) (rbField ir) (maskField ir) n).2 := by
  rw [opcodeMap_row]

/-- Settles O17: the decoder takes the row's instruction, and the byte after it exactly in a two-byte row. -/
theorem everyByteIsInItsRowOfTheOpcodeMap : Obligations.EveryByteIsInItsRowOfTheOpcodeMap := by
  unfold Obligations.EveryByteIsInItsRowOfTheOpcodeMap
  intro ir n rest
  rw [opcodeMap_row]
  cases hop : hasOperandByte ir with
  | false => rw [decode_one _ hop, instrOf_one 0 n hop]; rfl
  | true => exact decode_two n rest hop

/-- Settles O21: these rows of the map use none of the ignored bits, and DATA and JMPR only the register of bits 3..2. -/
theorem ignoredBitsChangeNothing : Obligations.IgnoredBitsChangeNothing := by
  unfold Obligations.IgnoredBitsChangeNothing
  intro ir jr n hrow
  rw [instrOf_eq_opcodeMap ir, instrOf_eq_opcodeMap jr, ← hrow]
  constructor
  case left => rintro (h | h | h) <;> rw [h] <;> rfl
  case right =>
    intro hrows hra
    have hsame : raField ir = raField jr := by
      rw [← ofNum_num (raField ir), ← ofNum_num (raField jr)]
      congr 1
      apply BitVec.eq_of_toNat_eq
      rw [raField_num_toNat, raField_num_toNat, hra]
    obtain h | h := hrows <;> rw [h, hsame] <;> rfl

/-! ## Decoding what was encoded -/

/-- The fields of a byte put together from a row and four low bits. -/
theorem fields_byteOfLow : ∀ row low : BitVec 4,
    (byteOfLow row low).toNat / 16 = row.toNat ∧ maskField (byteOfLow row low) = low := by decide

/-- A register byte is one whose low bits are the two register numbers. -/
theorem byteOfRegs_eq_byteOfLow (row : BitVec 4) (a b : BitVec 2) : byteOfRegs row a b = byteOfLow row (a ++ b) := by
  rw [byteOfRegs, byteOfLow, BitVec.append_assoc, BitVec.cast_eq]

/-- What the decoder reads in a byte of the encoder is its row of the map. -/
theorem decoded_byteOfLow (row low : BitVec 4) (n : Byte) :
    (instrOf (byteOfLow row low) n, hasOperandByte (byteOfLow row low)) =
      opcodeMap row.toNat (raField (byteOfLow row low)) (rbField (byteOfLow row low)) low n := by
  obtain ⟨hrow, hmask⟩ := fields_byteOfLow row low
  rw [← opcodeMap_row, hrow, hmask]

theorem decoded_byteOfRegs (row : BitVec 4) (ra rb : Reg) (n : Byte) :
    (instrOf (byteOfRegs row ra.num rb.num) n, hasOperandByte (byteOfRegs row ra.num rb.num)) =
      opcodeMap row.toNat ra rb (ra.num ++ rb.num) n := by
  obtain ⟨-, -, hra, hrb⟩ := fields_byteOfRegs row ra.num rb.num
  rw [byteOfRegs_eq_byteOfLow] at hra hrb ⊢
  rw [decoded_byteOfLow, hra, hrb, ofNum_num, ofNum_num]

theorem decode_of_oneByteRow {ir : Byte} {i : Instr} (rest : List Byte)
    (h : (instrOf ir 0, hasOperandByte ir) = (i, false)) : decode (ir :: rest) = .ok (i, rest) := by
  obtain ⟨rfl, hop⟩ := Prod.mk.inj h
  exact decode_one rest hop

theorem decode_of_twoByteRow {ir n : Byte} {i : Instr} (rest : List Byte)
    (h : (instrOf ir n, hasOperandByte ir) = (i, true)) : decode (ir :: n :: rest) = .ok (i, rest) := by
  obtain ⟨rfl, hop⟩ := Prod.mk.inj h
  exact decode_two n rest hop

/-- Settles O19: each instruction's byte stands in the row that the map gives that instruction and its length. -/
theorem decodeOfEncodeIsTheInstruction : Obligations.DecodeOfEncodeIsTheInstruction := by
  unfold Obligations.DecodeOfEncodeIsTheInstruction
  intro i rest
  cases i with
  | load ra rb => exact decode_of_oneByteRow rest (decoded_byteOfRegs 0b0000 ra rb 0)
  | store ra rb => exact decode_of_oneByteRow rest (decoded_byteOfRegs 0b0001 ra rb 0)
  | data ra n => exact decode_of_twoByteRow rest (decoded_byteOfRegs 0b0010 ra .r0 n)
  | jmpr ra => exact decode_of_oneByteRow rest (decoded_byteOfRegs 0b0011 ra .r0 0)
  | jump n => exact decode_of_twoByteRow rest (decoded_byteOfLow 0b0100 0 n)
  | jcaez mask n => exact decode_of_twoByteRow rest (decoded_byteOfLow 0b0101 mask n)
  | clf => exact decode_of_oneByteRow rest (decoded_byteOfLow 0b0110 0 0)
  | illegal => exact decode_of_oneByteRow rest (decoded_byteOfLow 0b0111 0 0)
  | add ra rb => exact decode_of_oneByteRow rest (decoded_byteOfRegs 0b1000 ra rb 0)
  | shr ra rb => exact decode_of_oneByteRow rest (decoded_byteOfRegs 0b1001 ra rb 0)
  | shl ra rb => exact decode_of_oneByteRow rest (decoded_byteOfRegs 0b1010 ra rb 0)
  | not ra rb => exact decode_of_oneByteRow rest (decoded_byteOfRegs 0b1011 ra rb 0)
  | and ra rb => exact decode_of_oneByteRow rest (decoded_byteOfRegs 0b1100 ra rb 0)
  | or ra rb => exact decode_of_oneByteRow rest (decoded_byteOfRegs 0b1101 ra rb 0)
  | xor ra rb => exact decode_of_oneByteRow rest (decoded_byteOfRegs 0b1110 ra rb 0)
  | comp ra rb => exact decode_of_oneByteRow rest (decoded_byteOfRegs 0b1111 ra rb 0)

/-- Settles O22: each of the spec's words is computed by the decoder. -/
theorem wordsOfTheSpecDecodeAsWritten : Obligations.WordsOfTheSpecDecodeAsWritten :=
  ⟨rfl, rfl, rfl, rfl, rfl, rfl, rfl, rfl, rfl, rfl, rfl, rfl⟩

/-! ## Encoding what was decoded -/

/-- A byte of a row, put together again from its fields, all of them or those that some row does not ignore. -/
theorem reassembled_byte {ir : Byte} {row : BitVec 4} (h : ir.toNat / 16 = row.toNat) :
    byteOfRegs row (ir.extractLsb' 2 2) (ir.extractLsb' 0 2) = ir ∧ byteOfRegs row (ir.extractLsb' 2 2) 0#2 = ir &&& 0xFC#8 ∧
    byteOfLow row (maskField ir) = ir ∧ byteOfLow row 0#4 = ir &&& 0xF0#8 := by
  have hrow : row = ir.extractLsb' 4 4 := by
    apply BitVec.eq_of_toNat_eq
    rw [BitVec.extractLsb'_toNat, Nat.shiftRight_eq_div_pow, ← Nat.mod_eq_of_lt row.isLt, ← h]
  rw [hrow]
  clear h hrow
  revert ir
  decide

/-- The bytes of a decoded instruction, row by row (R47, R52). -/
theorem encode_instrOf (ir n : Byte) :
    encode (instrOf ir n) = clearIgnored ir :: if hasOperandByte ir then [n] else [] := by
  have hlt : ir.toNat / 16 < 16 := by omega
  rw [instrOf_eq_opcodeMap, hasOperandByte_eq_opcodeMap ir n]
  unfold clearIgnored
  interval_cases hrow : ir.toNat / 16 <;> simp [opcodeMap, encode, @reassembled_byte ir, hrow]

/-- Settles O20: the decoder took the operand byte exactly where the encoder writes one. -/
theorem encodeOfDecodeIsTheBytes : Obligations.EncodeOfDecodeIsTheBytes := by
  unfold Obligations.EncodeOfDecodeIsTheBytes
  intro bytes i rest h
  cases bytes with
  | nil => cases h
  | cons ir tail =>
    refine ⟨ir, tail, rfl, ?_⟩
    cases hop : hasOperandByte ir with
    | false =>
      rw [decode_one tail hop] at h
      cases h
      simp [encode_instrOf, hop]
    | true =>
      cases tail with
      | nil => rw [decode_operand_missing hop] at h; cases h
      | cons n tail =>
        rw [decode_two n tail hop] at h
        cases h
        simp [encode_instrOf, hop]

end Sys2Proof.Machine
end

section
/-! PROOF. The ALU's sum and its bitwise operations (40_alu R61, R64 to R68), and what the eight ALU-class instructions make
of them (42_alu_class R85 to R93): one state, whose destination, ACC and FLAG are the evaluation's result and flags. -/

namespace Sys2Proof.Machine

/-! ## The combinational ALU -/

theorem aluResult_add_toNat (a b : Byte) (cin : Bool) :
    (aluResult a b cin .add).toNat = (a.toNat + b.toNat + cin.toNat) % 256 := BitVec.toNat_ofNat _ _

/-- NOT's subtraction from 255 is the complement of every bit. -/
theorem aluResult_not (a b : Byte) (cin : Bool) : aluResult a b cin .not = ~~~a := by
  apply BitVec.eq_of_toNat_eq
  rw [aluResult, BitVec.toNat_ofNat, BitVec.toNat_not, Nat.mod_eq_of_lt (by omega)]

theorem aluResult_not_toNat (a b : Byte) (cin : Bool) : (aluResult a b cin .not).toNat = 255 - a.toNat := by
  rw [aluResult_not, BitVec.toNat_not]

/-- Settles O11: the carry-out is the sum's bit of weight 256, the result its remainder. -/
theorem aluAddIsTheNineBitSum : Obligations.AluAddIsTheNineBitSum := by
  unfold Obligations.AluAddIsTheNineBitSum
  intro a b cin
  have hcin := Bool.toNat_le cin
  rw [alu_y, alu_cout, aluResult_add_toNat, aluCarryOut, Bool.toNat, Bool.cond_decide]
  split <;> omega

/-- Settles O14: NOT is the complement, AND, OR and XOR are the bit operations themselves, and no one of the five has a
carry-out. -/
theorem aluLogicActsBitByBit : Obligations.AluLogicActsBitByBit := by
  unfold Obligations.AluLogicActsBitByBit
  intro a b cin
  refine ⟨fun k hk => ⟨?not, BitVec.getLsbD_and, BitVec.getLsbD_or, BitVec.getLsbD_xor⟩,
    aluResult_not_toNat a b cin, rfl, ?carry⟩
  case not => simp [aluResult_not, hk]
  case carry => rintro op (rfl | rfl | rfl | rfl | rfl) <;> rfl

/-! ## FLAG after an evaluation -/

/-- The packed flags say what the evaluation found (10_state R16, R17). -/
theorem flagIs_packFlags (a b : Byte) (cin : Bool) (op : AluOp) :
    FlagIs (packFlags (alu a b cin op)) (aluResult a b cin op = 0) (a = b) (b.toNat < a.toNat)
      (aluCarryOut a b cin op = true) := by
  refine ⟨?zero, ?equal, ?larger, ?carry, packFlags_lt _⟩
  case zero =>
    rw [BitVec.getLsbD_eq_getElem (by decide), packFlags_bit0, decide_eq_true_iff]
    rfl
  case equal | larger | carry => simp

theorem FlagIs.congr {f : Byte} {z z' e a c c' : Prop} (h : FlagIs f z e a c) (hz : z ↔ z') (hc : c ↔ c') :
    FlagIs f z' e a c' := propext hz ▸ propext hc ▸ h

/-! ## The state an ALU-class instruction leaves -/

section
variable (op : AluOp) (ra rb : Reg) (s : State)

@[simp] theorem aluClassNext_mar : (aluClassNext op ra rb s).mar = s.mar := by
  unfold aluClassNext
  split <;> simp [aluCommit_eq]

@[simp] theorem aluClassNext_iar : (aluClassNext op ra rb s).iar = s.iar := by
  unfold aluClassNext
  split <;> simp [aluCommit_eq]

@[simp] theorem aluClassNext_ir : (aluClassNext op ra rb s).ir = s.ir := by
  unfold aluClassNext
  split <;> simp [aluCommit_eq]

@[simp] theorem aluClassNext_bus : (aluClassNext op ra rb s).bus = s.bus := by
  unfold aluClassNext
  split <;> simp [aluCommit_eq]

@[simp] theorem aluClassNext_halt : (aluClassNext op ra rb s).halt = s.halt := by
  unfold aluClassNext
  split <;> simp [aluCommit_eq]

@[simp] theorem aluClassNext_mem : (aluClassNext op ra rb s).mem = s.mem := by
  unfold aluClassNext
  split <;> simp [aluCommit_eq]

theorem flagIs_aluClassNext : FlagIs (aluClassNext op ra rb s).flag (aluResult (s.reg ra) (s.reg rb) false op = 0)
    (s.reg ra = s.reg rb) ((s.reg rb).toNat < (s.reg ra).toNat)
    (aluCarryOut (s.reg ra) (s.reg rb) false op = true) := by
  rw [aluClassNext_flag]
  exact flagIs_packFlags _ _ _ _

variable {op}

/-- Every operation but COMP puts its result into the destination. -/
theorem aluClassNext_destination (h : op ≠ .comp) :
    (aluClassNext op ra rb s).reg rb = aluResult (s.reg ra) (s.reg rb) false op := by
  simp [h]

theorem aluClassNext_acc_eq_destination (h : op ≠ .comp) :
    (aluClassNext op ra rb s).acc = (aluClassNext op ra rb s).reg rb := by
  simp [h]

end

/-- An operation whose result on two equal operands is that operand leaves every register, on one register. -/
theorem aluClassNext_sameRegs_of_idempotent {op : AluOp} {ra rb : Reg} (s : State) (hrr : ra = rb)
    (h : ∀ a, aluResult a a false op = a) : SameRegs s (aluClassNext op ra rb s) := by
  subst hrr
  intro r
  rw [aluClassNext_reg, h]
  split
  case isTrue hr => rw [hr.1]
  case isFalse => rfl

/-- Settles O41: the ALU-class state differs from the one before in ACC, FLAG and the destination alone. -/
theorem aluClassFrame : Obligations.AluClassFrame := by
  unfold Obligations.AluClassFrame
  intro i op ra rb s hi
  refine ⟨aluClassNext op ra rb s, exec_aluClass hi s, fun r hr => ?others, fun hcomp r => ?comp, ?rest⟩
  case others => simp [hr]
  case comp => simp [hcomp]
  case rest => simp [SameBytes]

/-! ## The eight instructions -/

/-- Settles O33: the ALU's sum without carry-in. -/
theorem addResult : Obligations.AddResult := by
  unfold Obligations.AddResult
  intro ra rb s
  have hsum := aluResult_add_toNat (s.reg ra) (s.reg rb) false
  refine ⟨aluClassNext .add ra rb s, exec_aluClass rfl s, ?_, aluClassNext_acc_eq_destination ra rb s (by decide),
    (flagIs_aluClassNext .add ra rb s).congr ?_ ?_⟩
  · rw [aluClassNext_destination ra rb s (by decide), hsum]
    rfl
  · rw [← BitVec.toNat_inj, hsum]
    rfl
  · exact decide_eq_true_iff

/-- Settles O34: the ALU's halving without carry-in; the bit shifted out is the remainder. -/
theorem shrResult : Obligations.ShrResult := by
  unfold Obligations.ShrResult
  intro ra rb s
  have hhalf := aluResult_shr_toNat (s.reg ra) (s.reg rb) false
  refine ⟨aluClassNext .shr ra rb s, exec_aluClass rfl s, ?_, aluClassNext_acc_eq_destination ra rb s (by decide),
    (flagIs_aluClassNext .shr ra rb s).congr ?_ ?_⟩
  · rw [aluClassNext_destination ra rb s (by decide), hhalf]
    rfl
  · rw [← BitVec.toNat_inj, hhalf]
    rfl
  · simp [aluCarryOut, BitVec.getLsbD, Nat.testBit_zero]

/-- Settles O35: the ALU's doubling without carry-in. -/
theorem shlResult : Obligations.ShlResult := by
  unfold Obligations.ShlResult
  intro ra rb s
  have hdouble := aluResult_shl_toNat (s.reg ra) (s.reg rb) false
  refine ⟨aluClassNext .shl ra rb s, exec_aluClass rfl s, ?_, aluClassNext_acc_eq_destination ra rb s (by decide),
    (flagIs_aluClassNext .shl ra rb s).congr ?_ ?_⟩
  · rw [aluClassNext_destination ra rb s (by decide), hdouble]
    rfl
  · rw [← BitVec.toNat_inj, hdouble]
    rfl
  · rw [aluCarryOut_shl, decide_eq_true_iff]

/-- Settles O36: the complement, which is 0 for 255 alone. -/
theorem notResult : Obligations.NotResult := by
  unfold Obligations.NotResult
  intro ra rb s
  have hnot := aluResult_not_toNat (s.reg ra) (s.reg rb) false
  refine ⟨aluClassNext .not ra rb s, exec_aluClass rfl s, ?_, aluClassNext_acc_eq_destination ra rb s (by decide),
    (flagIs_aluClassNext .not ra rb s).congr ?_ Bool.false_eq_true.to_iff⟩
  · rw [aluClassNext_destination ra rb s (by decide), hnot]
  · rw [← BitVec.toNat_inj, hnot]
    change 255 - _ = 0 ↔ _
    omega

/-- Settles O37: the bitwise AND, which changes nothing on one register. -/
theorem andResult : Obligations.AndResult := by
  unfold Obligations.AndResult
  intro ra rb s
  exact ⟨aluClassNext .and ra rb s, exec_aluClass rfl s, aluClassNext_destination ra rb s (by decide),
    aluClassNext_acc_eq_destination ra rb s (by decide),
    (flagIs_aluClassNext .and ra rb s).congr Iff.rfl Bool.false_eq_true.to_iff,
    fun hrr => aluClassNext_sameRegs_of_idempotent s hrr fun _ => BitVec.and_self⟩

/-- Settles O38: the bitwise OR, which is 0 only when both operands are, and changes nothing on one register. -/
theorem orResult : Obligations.OrResult := by
  unfold Obligations.OrResult
  intro ra rb s
  exact ⟨aluClassNext .or ra rb s, exec_aluClass rfl s, aluClassNext_destination ra rb s (by decide),
    aluClassNext_acc_eq_destination ra rb s (by decide),
    (flagIs_aluClassNext .or ra rb s).congr BitVec.or_eq_zero_iff Bool.false_eq_true.to_iff,
    fun hrr => aluClassNext_sameRegs_of_idempotent s hrr fun _ => BitVec.or_self⟩

/-- Settles O39: the bitwise XOR, which is 0 exactly when the operands are equal, as they are on one register. -/
theorem xorResult : Obligations.XorResult := by
  unfold Obligations.XorResult
  intro ra rb s
  refine ⟨aluClassNext .xor ra rb s, exec_aluClass rfl s, aluClassNext_destination ra rb s (by decide),
    aluClassNext_acc_eq_destination ra rb s (by decide),
    (flagIs_aluClassNext .xor ra rb s).congr BitVec.xor_eq_zero_iff Bool.false_eq_true.to_iff, ?self⟩
  rintro rfl
  simp [aluResult, aluCarryOut, packFlags]

/-- Settles O40: no register is COMP's destination, and the order of the operands alone decides FLAG. -/
theorem compResult : Obligations.CompResult := by
  unfold Obligations.CompResult
  intro ra rb s
  refine ⟨aluClassNext .comp ra rb s, exec_aluClass rfl s, fun r => ?registers, ?acc, ?equal, ?larger, ?below⟩
  case registers => simp
  case acc => simp [aluResult]
  case equal => exact fun h => by simp [packFlags, aluResult, aluCarryOut, h]
  case larger =>
    intro h
    have hne : s.reg ra ≠ s.reg rb := fun e => by simp [e] at h
    simp [packFlags, aluResult, aluCarryOut, h, hne]
  case below =>
    intro h
    have hne : s.reg ra ≠ s.reg rb := fun e => by simp [e] at h
    simp [packFlags, aluResult, aluCarryOut, Nat.not_lt.mpr h.le, hne]

end Sys2Proof.Machine
end

section
/-! PROOF. The state after an instruction as one function of the instruction and the state after its fetch. Every step of a
running machine answers it (41_instruction_cycle R75, R77), so what a step keeps, writes and reads is said of it. -/

namespace Sys2Proof.Machine

/-! ## The next state -/

/-- What `exec` leaves of a state, for every instruction. -/
def execNext (i : Instr) (s : State) : State :=
  match i with
  | .add ra rb => aluClassNext .add ra rb s
  | .shr ra rb => aluClassNext .shr ra rb s
  | .shl ra rb => aluClassNext .shl ra rb s
  | .not ra rb => aluClassNext .not ra rb s
  | .and ra rb => aluClassNext .and ra rb s
  | .or ra rb => aluClassNext .or ra rb s
  | .xor ra rb => aluClassNext .xor ra rb s
  | .comp ra rb => aluClassNext .comp ra rb s
  | .load ra rb => afterLoad ra rb s
  | .store ra rb => afterStore ra rb s
  | .data ra n => s.passOperand.setReg ra n
  | .jmpr ra => if ra = .r0 then s.setIar (s.reg .r0) else s.raise .invalidRegisterSlot
  | .jump n => (s.setMar s.iar).setIar n
  | .jcaez mask n => s.passOperand.setIar (if maskSelects s.flag mask then n else inc s.iar)
  | .clf => s.setFlag 0
  | .illegal => s.raise .invalidInstruction

/-- A proof about every instruction, the ALU class being one case. -/
theorem Instr.byClass {motive : Instr → Prop}
    (aluClass : ∀ i op ra rb, aluClassOf i = some (op, ra, rb) → motive i)
    (load : ∀ ra rb, motive (.load ra rb)) (store : ∀ ra rb, motive (.store ra rb))
    (data : ∀ ra n, motive (.data ra n)) (jmpr : ∀ ra, motive (.jmpr ra)) (jump : ∀ n, motive (.jump n))
    (jcaez : ∀ mask n, motive (.jcaez mask n)) (clf : motive .clf) (illegal : motive .illegal) (i : Instr) :
    motive i := by
  cases i with
  | add | shr | shl | not | and | or | xor | comp => exact aluClass _ _ _ _ rfl
  | load ra rb => exact load ra rb
  | store ra rb => exact store ra rb
  | data ra n => exact data ra n
  | jmpr ra => exact jmpr ra
  | jump n => exact jump n
  | jcaez mask n => exact jcaez mask n
  | clf => exact clf
  | illegal => exact illegal

theorem execNext_aluClass {i : Instr} {op : AluOp} {ra rb : Reg} (hi : aluClassOf i = some (op, ra, rb)) (s : State) :
    execNext i s = aluClassNext op ra rb s := by
  cases i <;> cases hi <;> rfl

/-- Every instruction answers a next state in every state. -/
theorem exec_eq_next (i : Instr) (s : State) : exec i s = .next (execNext i s) := by
  induction i using Instr.byClass with
  | aluClass i op ra rb hi => rw [exec_aluClass hi, execNext_aluClass hi]
  | store ra rb => exact exec_store ra rb s
  | jmpr ra => exact (execJmpr_eq ra s).trans (apply_ite Host.Outcome.next _ _ _).symm
  | jcaez mask n =>
    refine congrArg Host.Outcome.next ?_
    dsimp only [execNext]
    rw [passOperand_flag]
    split <;> rfl
  | load | data | jump | clf | illegal => rfl

theorem step_eq_next {s : State} (h : s.halt = .running) : step s = .next (execNext (fetchedInstr s) (fetch s)) :=
  (step_running h).trans (exec_eq_next _ _)

/-- A step that answers a next state ran in a running machine and answers the state named here. -/
theorem of_step_next {s t : State} (h : step s = .next t) :
    s.halt = .running ∧ t = execNext (fetchedInstr s) (fetch s) := by
  obtain ⟨hrun, hexec⟩ := step_next h
  rw [exec_eq_next] at hexec
  exact ⟨hrun, (Host.Outcome.next.inj hexec).symm⟩

/-- Settles O26: no instruction is without a next state. -/
theorem runningMachineAlwaysSteps : Obligations.RunningMachineAlwaysSteps := fun _ hsafe => ⟨_, step_eq_next hsafe⟩

/-! ## What it keeps and writes -/

@[simp] theorem execNext_bus (i : Instr) (s : State) : (execNext i s).bus = s.bus := by
  induction i using Instr.byClass with
  | aluClass i op ra rb hi => simp [execNext_aluClass hi]
  | jmpr ra => dsimp only [execNext]; split <;> rfl
  | load | store | data | jump | jcaez | clf | illegal => simp [execNext, afterLoad, afterStore]

theorem execNext_mem {i : Instr} (h : ∀ ra rb, i ≠ .store ra rb) (s : State) : (execNext i s).mem = s.mem := by
  induction i using Instr.byClass with
  | aluClass i op ra rb hi => simp [execNext_aluClass hi]
  | store ra rb => exact absurd rfl (h ra rb)
  | jmpr ra => dsimp only [execNext]; split <;> rfl
  | load | data | jump | jcaez | clf | illegal => simp [execNext, afterLoad]

/-- FLAG is written by the ALU class and by CLF (10_state R18). -/
theorem execNext_flag (i : Instr) (s : State) : (execNext i s).flag = flagAfter s i := by
  induction i using Instr.byClass with
  | aluClass i op ra rb hi => simp [execNext_aluClass hi, flagAfter, hi, aluClassEval_eq]
  | jmpr ra => dsimp only [execNext]; split <;> rfl
  | load | store | data | jump | jcaez | clf | illegal => simp [execNext, flagAfter, aluClassOf, afterLoad, afterStore]

/-- The two instructions that halt leave the state they were given, HALT apart; the others leave HALT. -/
theorem execNext_halt_cases (i : Instr) (s : State) :
    (i = .illegal ∧ execNext i s = s.raise .invalidInstruction) ∨
    (∃ ra, ra ≠ .r0 ∧ i = .jmpr ra ∧ execNext i s = s.raise .invalidRegisterSlot) ∨
    (i ≠ .illegal ∧ (∀ ra, ra ≠ .r0 → i ≠ .jmpr ra) ∧ (execNext i s).halt = s.halt) := by
  induction i using Instr.byClass with
  | aluClass i op ra rb hi =>
    refine .inr (.inr ⟨?_, ?_, by simp [execNext_aluClass hi]⟩)
    · rintro rfl
      cases hi
    · rintro _ - rfl
      cases hi
  | illegal => exact .inl ⟨rfl, rfl⟩
  | jmpr ra =>
    by_cases hra : ra = .r0
    · exact .inr (.inr ⟨nofun, fun r hr e => hr (by cases e; exact hra), by simp [execNext, hra]⟩)
    · exact .inr (.inl ⟨ra, hra, rfl, if_neg hra⟩)
  | load | store | data | jump | jcaez | clf =>
    exact .inr (.inr ⟨nofun, nofun, by simp [execNext, afterLoad, afterStore]⟩)

/-! ## The invariant -/

/-- An evaluation's flags have their upper bits 0 and never say both equal and larger (40_alu R60). -/
theorem packFlags_alu_ok (a b : Byte) (cin : Bool) (op : AluOp) :
    (packFlags (alu a b cin op)).extractLsb' 4 4 = 0 ∧
      ¬ (flagE (packFlags (alu a b cin op)) = true ∧ flagA (packFlags (alu a b cin op)) = true) := by
  obtain ⟨-, hequal, hlarger, -, hlt⟩ := flagIs_packFlags a b cin op
  constructor
  · apply BitVec.eq_of_toNat_eq
    rw [BitVec.extractLsb'_toNat, Nat.shiftRight_eq_div_pow, Nat.div_eq_of_lt hlt]
    rfl
  · rintro ⟨he, ha⟩
    have hab : a = b := hequal.mp he
    exact (hlarger.mp ha).ne (by rw [hab])

theorem flagAfter_ok {s : State} (h : s.Inv) (i : Instr) :
    (flagAfter s i).extractLsb' 4 4 = 0 ∧ ¬ (flagE (flagAfter s i) = true ∧ flagA (flagAfter s i) = true) := by
  unfold flagAfter
  split
  case h_1 op ra rb _ => exact packFlags_alu_ok _ _ _ op
  case h_2 =>
    split
    · decide
    · exact ⟨h.flagHighZero, h.flagNotBothEA⟩

theorem execNext_mem_wf {s : State} (h : s.mem.wf = true) (i : Instr) : (execNext i s).mem.wf = true := by
  by_cases hstore : ∃ ra rb, i = .store ra rb
  · obtain ⟨ra, rb, rfl⟩ := hstore
    exact write_keeps_wf _ _ h
  · rwa [execNext_mem fun ra rb e => hstore ⟨ra, rb, e⟩]

theorem execNext_keeps_inv {s : State} (h : s.Inv) (i : Instr) : (execNext i s).Inv where
  memoryCanonical := execNext_mem_wf h.memoryCanonical i
  flagHighZero := by rw [execNext_flag]; exact (flagAfter_ok h i).1
  flagNotBothEA := by rw [execNext_flag]; exact (flagAfter_ok h i).2
  busZero := (execNext_bus i s).trans h.busZero

/-- The fetch writes none of the elements the invariant is about. -/
theorem fetch_keeps_inv {s : State} (h : s.Inv) : (fetch s).Inv :=
  ⟨h.memoryCanonical, h.flagHighZero, h.flagNotBothEA, h.busZero⟩

/-- Settles O4: the fetch keeps the invariant, and so does every instruction. -/
theorem stepKeepsInvariant : Obligations.StepKeepsInvariant := by
  unfold Obligations.StepKeepsInvariant
  intro s t hinv hstep
  obtain ⟨-, rfl⟩ := of_step_next hstep
  exact execNext_keeps_inv (fetch_keeps_inv hinv) _

/-- Settles O3: the reset memory is empty, and FLAG and BUS are 0. -/
theorem resetMeetsInvariant : Obligations.ResetMeetsInvariant := ⟨reset_mem_wf, rfl, by decide, rfl⟩

end Sys2Proof.Machine
end

section
/-! PROOF. Reset, the register file, memory as its bytes, and the fetch (10_state R10, R27; 20_memory R30; 41_instruction_cycle
R75 to R80). -/

namespace Sys2Proof.Machine

/-- Settles O1: every element of the reset state is written out as 0, and the empty memory reads 0. -/
theorem resetLeavesEveryElementZero : Obligations.ResetLeavesEveryElementZero :=
  ⟨fun r => by cases r <;> rfl, rfl, rfl, rfl, rfl, rfl, rfl, rfl, fun _ => rfl⟩

/-- Settles O5: the register file's write rules, field by field. -/
theorem registerWriteIsIsolated : Obligations.RegisterWriteIsIsolated := by
  unfold Obligations.RegisterWriteIsIsolated
  intro s d v
  refine ⟨?written, fun r hr => ?others, ?rest⟩
  case written => rw [setReg_reg, if_pos rfl]
  case others => rw [setReg_reg, if_neg hr]
  case rest => simp

/-- Settles O7: canonical cells are determined by the bytes found at each address. -/
theorem equalBytesAreEqualMemories : Obligations.EqualBytesAreEqualMemories := fun _ _ => eq_of_read_eq

/-! ## The fetch and the step -/

theorem inc_toNat (v : Byte) : (inc v).toNat = (v.toNat + 1) % 256 := by rw [inc_eq, BitVec.toNat_add]; rfl

theorem inc_inc (v : Byte) : inc (inc v) = v + 2 := by
  rw [inc_eq, inc_eq, BitVec.add_assoc]
  rfl

/-- Settles O24: the increment of IAR wraps at 256, and the fetch writes MAR, ACC, IR and IAR alone. -/
theorem fetchCommitsBeforeDispatch : Obligations.FetchCommitsBeforeDispatch := fun s =>
  ⟨rfl, rfl, inc_toNat s.iar, inc_toNat s.iar, fetch_reg s, rfl, rfl, rfl, rfl⟩

/-- The instruction fetched is the one that decoding the two bytes at IAR answers. -/
theorem fetchedInstr_of_decode {s : State} {i : Instr} {rest : List Byte}
    (h : decode [s.mem.read s.iar, s.mem.read (s.iar + 1)] = .ok (i, rest)) : fetchedInstr s = i := by
  rw [← inc_eq] at h
  cases hop : hasOperandByte (s.mem.read s.iar) with
  | true =>
    rw [decode_two _ _ hop] at h
    cases h
    rfl
  | false =>
    rw [decode_one _ hop] at h
    cases h
    exact instrOf_one _ _ hop

/-- Settles O23: a running machine's step executes what it fetched, which is what decoding answers. -/
theorem stepRunsTheDecodedInstruction : Obligations.StepRunsTheDecodedInstruction := by
  unfold Obligations.StepRunsTheDecodedInstruction
  intro s i rest hsafe hdecode
  rw [step_running hsafe, fetchedInstr_of_decode hdecode]

/-- Settles O2: the reset machine runs with IAR 0, so its step is the one of the bytes at 0 and 1. -/
theorem executionBeginsAtAddressZero : Obligations.ExecutionBeginsAtAddressZero :=
  ⟨rfl, fun m => ⟨_, rfl, rfl, rfl, step_running (s := State.reset.setMem m) rfl⟩⟩

/-- Settles O25: each halt has its own fault, and reset looks at no state. -/
theorem haltedMachineHasNoStep : Obligations.HaltedMachineHasNoStep := by
  unfold Obligations.HaltedMachineHasNoStep
  refine fun s => ⟨fun h => ?_, fun h => ?_, rfl⟩ <;> simp [serve, step, haltFault, h]

/-- Settles O29: the step looks at HALT, IAR and memory, and its fetch overwrites MAR, ACC and IR. -/
theorem stagingRegistersAreNotObserved : Obligations.StagingRegistersAreNotObserved := by
  unfold Obligations.StagingRegistersAreNotObserved
  intro s m a i
  have hfetch : fetch (((s.setMar m).setAcc a).setIr i) = fetch s := rfl
  have hinstr : fetchedInstr (((s.setMar m).setAcc a).setIr i) = fetchedInstr s := rfl
  unfold step
  rw [hfetch, hinstr]
  rfl

end Sys2Proof.Machine
end

section
/-! PROOF. What every step does to one element of the state: memory, IAR, FLAG, BUS, HALT (10_state R15, R18, R22; 20_memory
R33, R39; 60_exceptions R125, R128). -/

namespace Sys2Proof.Machine

/-! ## Which byte runs which instruction -/

/-- The rows of the jumps and of the illegal instruction in the opcode map, with their operands (30_encoding R47). -/
theorem instrOf_rows (ir n : Byte) :
    (∀ ra, instrOf ir n = .jmpr ra ↔ ir.toNat / 16 = 3 ∧ ra = raField ir) ∧
    (∀ m, instrOf ir n = .jump m ↔ ir.toNat / 16 = 4 ∧ m = n) ∧
    (∀ mask m, instrOf ir n = .jcaez mask m ↔ ir.toNat / 16 = 5 ∧ mask = maskField ir ∧ m = n) ∧
    (instrOf ir n = .illegal ↔ ir.toNat / 16 = 7) := by
  have hlt : ir.toNat / 16 < 16 := by omega
  rw [instrOf_eq_opcodeMap]
  interval_cases ir.toNat / 16 <;> simp [opcodeMap, eq_comm]

/-! ## Memory -/

theorem execNext_store_mem (ra rb : Reg) (s : State) :
    (execNext (.store ra rb) s).mem = s.mem.write (s.reg ra) (s.reg rb) := rfl

/-- Settles O8: an instruction that is no STORE leaves memory, and a STORE writes one byte. -/
theorem onlyStoreChangesMemory : Obligations.OnlyStoreChangesMemory := by
  unfold Obligations.OnlyStoreChangesMemory
  intro s t a hstep hchanged
  obtain ⟨-, rfl⟩ := of_step_next hstep
  by_cases hstore : ∃ ra rb, fetchedInstr s = .store ra rb
  case pos =>
    obtain ⟨ra, rb, hi⟩ := hstore
    have hmem : (execNext (fetchedInstr s) (fetch s)).mem = s.mem.write (s.reg ra) (s.reg rb) := by
      rw [hi, execNext_store_mem, fetch_mem, fetch_reg, fetch_reg]
    rw [hmem] at hchanged ⊢
    obtain rfl : a = s.reg ra := by
      by_contra hne
      exact hchanged (read_write_other _ _ hne)
    exact ⟨ra, rb, hi, rfl, read_write_same _ _ _⟩
  case neg =>
    have hmem := execNext_mem (fun ra rb e => hstore ⟨ra, rb, e⟩) (fetch s)
    rw [hmem, fetch_mem] at hchanged
    exact absurd rfl hchanged

/-- Settles O9: IR keeps the byte fetched before the write, and the next fetch reads the memory written. -/
theorem storeIsSeenByTheNextFetch : Obligations.StoreIsSeenByTheNextFetch := by
  unfold Obligations.StoreIsSeenByTheNextFetch
  intro s ra rb hsafe hi
  have hstep : step s = .next (afterStore ra rb (fetch s)) := by
    rw [step_eq_next hsafe, hi]
    rfl
  have hrun : (afterStore ra rb (fetch s)).halt = .running := hsafe
  have hir : (afterStore ra rb (fetch s)).ir = s.mem.read s.iar := rfl
  have hiar : (afterStore ra rb (fetch s)).iar = s.iar + 1 := inc_eq s.iar
  have hread : (afterStore ra rb (fetch s)).mem.read (s.reg ra) = s.reg rb := by simp [afterStore]
  generalize afterStore ra rb (fetch s) = t at hstep hrun hir hiar hread
  refine ⟨t, hstep, hir, hread, fun hnext => ?_⟩
  have hfetched : t.mem.read t.iar = s.reg rb := by rw [hiar, ← hnext, hread]
  refine ⟨(fetch_ir t).trans hfetched, t.mem.read (inc t.iar), ?_⟩
  rw [step_running hrun, fetchedInstr, hfetched]

/-! ## IAR -/

theorem iarAfter_aluClass {i : Instr} {op : AluOp} {ra rb : Reg} (hi : aluClassOf i = some (op, ra, rb)) (s : State) :
    iarAfter s i = s.iar + 1 := by
  cases i <;> cases hi <;> rfl

/-- Settles O27: the fetch leaves p + 1, and only the instructions with an operand byte and JMPR write IAR after it. -/
theorem iarAfterEachInstruction : Obligations.IarAfterEachInstruction := by
  unfold Obligations.IarAfterEachInstruction
  intro s t hstep
  obtain ⟨-, rfl⟩ := of_step_next hstep
  generalize hi : fetchedInstr s = i
  induction i using Instr.byClass with
  | aluClass i op ra rb hclass => simp [execNext_aluClass hclass, iarAfter_aluClass hclass, inc_eq]
  | load | store | clf | illegal => simp [execNext, afterLoad, afterStore, iarAfter, inc_eq]
  | data ra n => simp [execNext, iarAfter, inc_inc]
  | jmpr ra => cases ra <;> simp [execNext, iarAfter, inc_eq]
  | jump n =>
    obtain ⟨-, hjump, -⟩ := instrOf_rows (s.mem.read s.iar) (s.mem.read (inc s.iar))
    obtain ⟨-, rfl⟩ := (hjump n).mp hi
    simp [execNext, iarAfter, inc_eq]
  | jcaez mask n =>
    obtain ⟨-, -, hjcaez, -⟩ := instrOf_rows (s.mem.read s.iar) (s.mem.read (inc s.iar))
    obtain ⟨-, -, rfl⟩ := (hjcaez mask n).mp hi
    simp [execNext, iarAfter, inc_eq, BitVec.add_assoc, maskSelects]

/-! ## FLAG -/

/-- Started with another FLAG, an instruction other than JCAEZ leaves the same state, FLAG apart. -/
theorem execNext_setFlag {i : Instr} (hi : ∀ mask n, i ≠ .jcaez mask n) (s : State) (f : Byte) :
    (execNext i (s.setFlag f)).setFlag (execNext i s).flag = execNext i s := by
  induction i using Instr.byClass with
  | aluClass i op ra rb hclass =>
    rw [execNext_aluClass hclass, execNext_aluClass hclass]
    apply state_eq_of_fields <;> simp
  | jcaez mask n => exact absurd rfl (hi mask n)
  | jmpr ra => dsimp only [execNext]; split <;> rfl
  | load | store | data | jump | clf | illegal =>
    apply state_eq_of_fields <;> simp [execNext, afterLoad, afterStore]

/-- Started with another FLAG, any instruction leaves the same state, FLAG and IAR apart. -/
theorem execNext_setFlag_setIar (i : Instr) (s : State) (f : Byte) :
    ((execNext i (s.setFlag f)).setFlag (execNext i s).flag).setIar (execNext i s).iar = execNext i s := by
  by_cases hi : ∃ mask n, i = .jcaez mask n
  case pos =>
    obtain ⟨mask, n, rfl⟩ := hi
    rfl
  case neg =>
    rw [execNext_setFlag fun mask n e => hi ⟨mask, n, e⟩]
    rfl

theorem flagAfter_fetch (s : State) (i : Instr) : flagAfter (fetch s) i = flagAfter s i := by
  simp [flagAfter, aluClassEval_eq]

/-- Settles O28: FLAG after each instruction, and two runs of one instruction from states that differ in FLAG alone. -/
theorem flagWritersAndItsOneReader : Obligations.FlagWritersAndItsOneReader := by
  unfold Obligations.FlagWritersAndItsOneReader
  refine ⟨rfl, fun s t hstep => ?writers, fun s t u f hstep hstep' => ?readers⟩
  case writers =>
    obtain ⟨-, rfl⟩ := of_step_next hstep
    rw [execNext_flag, flagAfter_fetch]
  case readers =>
    obtain ⟨-, rfl⟩ := of_step_next hstep
    obtain ⟨-, hu⟩ := of_step_next hstep'
    obtain rfl : u = execNext (fetchedInstr s) ((fetch s).setFlag f) := hu
    have hsame := execNext_setFlag_setIar (fetchedInstr s) (fetch s) f
    refine ⟨fun r => ?_, ?_, fun hi => execNext_setFlag hi (fetch s) f, fun _ _ _ => hsame⟩
    · simpa using congrArg (State.reg · r) hsame
    · simpa using congrArg State.mem hsame

/-! ## BUS -/

theorem execNext_withBus (i : Instr) (s : State) (v : Byte) :
    execNext i { s with bus := v } = { execNext i s with bus := v } := by
  induction i using Instr.byClass with
  | aluClass i op ra rb hclass =>
    rw [execNext_aluClass hclass, execNext_aluClass hclass]
    unfold aluClassNext
    split
    · rfl
    · cases rb <;> rfl
  | jmpr ra => dsimp only [execNext]; split <;> rfl
  | load ra rb => cases rb <;> rfl
  | data ra n => cases ra <;> rfl
  | store | jump | jcaez | clf | illegal => rfl

/-- Settles O30: neither the fetch nor any instruction writes BUS or looks at it. -/
theorem busIsNeitherWrittenNorObserved : Obligations.BusIsNeitherWrittenNorObserved := by
  unfold Obligations.BusIsNeitherWrittenNorObserved
  intro s t v hstep
  obtain ⟨hrun, rfl⟩ := of_step_next hstep
  exact ⟨execNext_bus _ _, (step_eq_next (s := { s with bus := v }) hrun).trans
    (congrArg Host.Outcome.next (execNext_withBus (fetchedInstr s) (fetch s) v))⟩

/-! ## HALT -/

theorem raField_eq_r0_iff (ir : Byte) : raField ir = .r0 ↔ ir.toNat / 4 % 4 = 0 := by
  rw [← raField_num_toNat]
  cases raField ir <;> decide

/-- Settles O31: HALT after the step tells the two halting instructions apart, and their bytes are those of row 7 and of row
3 with a non-zero register field. -/
theorem onlyTheFaultBytesHalt : Obligations.OnlyTheFaultBytesHalt := by
  unfold Obligations.OnlyTheFaultBytesHalt
  intro s t hstep
  obtain ⟨hrun, rfl⟩ := of_step_next hstep
  obtain ⟨hjmpr, -, -, hillegal⟩ := instrOf_rows (s.mem.read s.iar) (s.mem.read (inc s.iar))
  have hfield := raField_eq_r0_iff (s.mem.read s.iar)
  rcases execNext_halt_cases (fetchedInstr s) (fetch s) with ⟨hi, h⟩ | ⟨ra, hra, hi, h⟩ | ⟨hni, hnj, h⟩
  case inl =>
    have hrow := hillegal.mp hi
    simp only [h, raise_halt]
    constructor <;> simp only [reduceCtorEq, true_iff, false_iff] <;> omega
  case inr.inl =>
    obtain ⟨hrow, rfl⟩ := (hjmpr ra).mp hi
    have hnz := mt hfield.mpr hra
    simp only [h, raise_halt]
    constructor <;> simp only [reduceCtorEq, true_iff, false_iff] <;> omega
  case inr.inr =>
    have hrow := mt hillegal.mpr hni
    have hslot : (s.mem.read s.iar).toNat / 16 = 3 → (s.mem.read s.iar).toNat / 4 % 4 = 0 := fun h3 =>
      hfield.mp (by_contra fun hra => hnj _ hra ((hjmpr _).mpr ⟨h3, rfl⟩))
    simp only [h, fetch_halt, hrun]
    constructor <;> simp only [reduceCtorEq, false_iff] <;> omega

/-- Settles O32: a running machine's HALT is written by the two halting instructions alone, which write nothing else. -/
theorem faultLeavesTheStateAfterTheFetch : Obligations.FaultLeavesTheStateAfterTheFetch := by
  unfold Obligations.FaultLeavesTheStateAfterTheFetch
  intro s t hstep hhalted
  obtain ⟨hrun, rfl⟩ := of_step_next hstep
  rcases execNext_halt_cases (fetchedInstr s) (fetch s) with ⟨-, h⟩ | ⟨-, -, -, h⟩ | ⟨-, -, h⟩
  · rw [h]; rfl
  · rw [h]; rfl
  · exact absurd (h.trans hrun) hhalted

end Sys2Proof.Machine
end

section
/-! PROOF. LOAD, STORE and DATA, the jumps, CLF, the illegal row and COPY (43_load_store_data, 44_jumps, 45_clf,
30_encoding R57), each read off the one state it leaves. -/

namespace Sys2Proof.Machine

/-! ## LOAD, STORE, DATA -/

/-- Settles O46: DATA passes the operand byte and then writes its register. -/
theorem dataResult : Obligations.DataResult := by
  unfold Obligations.DataResult
  intro ra n s
  refine ⟨_, exec_eq_next (.data ra n) s, ?_⟩
  simp [execNext, inc_toNat]

/-- Settles O47: of the elements in the frame, LOAD and DATA write their destination and STORE one byte of memory. -/
theorem loadStoreDataFrame : Obligations.LoadStoreDataFrame := by
  unfold Obligations.LoadStoreDataFrame
  refine ⟨fun ra rb s => ⟨_, exec_load ra rb s, fun r hr => ?load, ?loadRest⟩,
    fun ra n s => ⟨_, exec_eq_next (.data ra n) s, fun r hr => ?data, ?dataRest⟩,
    fun ra rb s => ⟨_, exec_store ra rb s, fun r => ?store, ?storeRest⟩⟩
  case load => simp [hr]
  case loadRest => simp [afterLoad, SameBytes]
  case data => simp [execNext, hr]
  case dataRest => simp [execNext, SameBytes]
  case store => simp [afterStore]
  case storeRest =>
    refine ⟨rfl, rfl, rfl, rfl, rfl, rfl, ?_⟩
    rintro a b rfl hb
    exact read_write_other _ _ hb

/-- A byte of a two-byte row runs with the byte after it (20_memory R34). -/
theorem fetchedInstr_of_row {s : State} {row : Nat} (h : (s.mem.read s.iar).toNat / 16 = row) :
    fetchedInstr s = (opcodeMap row (raField (s.mem.read s.iar)) (rbField (s.mem.read s.iar))
      (maskField (s.mem.read s.iar)) (s.mem.read (s.iar + 1))).1 := by
  rw [fetchedInstr, instrOf_eq_opcodeMap, h, inc_eq]

/-- Settles O48: row 2 runs DATA on the state after the fetch, whose IAR is already one past the instruction byte. -/
theorem dataStepLoadsTheNextByte : Obligations.DataStepLoadsTheNextByte := by
  unfold Obligations.DataStepLoadsTheNextByte
  intro s hsafe hrow
  have hstep := step_eq_next hsafe
  rw [fetchedInstr_of_row hrow] at hstep
  refine ⟨_, hstep, ?destination, fun r hr => ?others, ?rest⟩
  case destination => simp [opcodeMap, execNext]
  case others => simp [opcodeMap, execNext, hr]
  case rest => simp [opcodeMap, execNext, SameBytes, inc_eq, BitVec.add_assoc]

/-! ## Jumps -/

/-- Settles O49: register field 0 names slot 0, which holds R0. -/
theorem jmprJumpsThroughR0 : Obligations.JmprJumpsThroughR0 := exec_eq_next (.jmpr .r0)

/-- Settles O50: a field other than 0 names no slot. -/
theorem jmprOtherSlotHalts : Obligations.JmprOtherSlotHalts := fun ra s hra =>
  (execJmpr_eq ra s).trans (if_neg hra)

/-- Settles O51: JUMP leaves its operand byte in IAR. -/
theorem jumpResult : Obligations.JumpResult := fun n s => ⟨_, exec_eq_next (.jump n) s, rfl, rfl, rfl, rfl⟩

/-- Settles O52: row 4 runs JUMP on the state after the fetch. -/
theorem jumpStepGoesToTheOperandByte : Obligations.JumpStepGoesToTheOperandByte := by
  unfold Obligations.JumpStepGoesToTheOperandByte
  intro s hsafe hrow
  have hstep := step_eq_next hsafe
  rw [fetchedInstr_of_row hrow] at hstep
  refine ⟨_, hstep, ?_⟩
  simp [opcodeMap, execNext, inc_eq]

/-- The mask selects nothing exactly when each flag it names is 0 (30_encoding R50). -/
theorem maskSelects_eq_false_iff (f : Byte) (mask : BitVec 4) :
    maskSelects f mask = false ↔ ∀ k < 4, mask.getLsbD k = true → f.getLsbD k = false := by
  rw [maskSelects, bne_eq_false_iff_eq]
  constructor
  case mp =>
    intro h k hk hm
    have hbit : (f &&& mask.setWidth 8).getLsbD k = false := by simp [h]
    simpa [hm, show k < 8 by omega] using hbit
  case mpr =>
    intro h
    apply BitVec.eq_of_getLsbD_eq
    intro k _
    rw [BitVec.getLsbD_and, BitVec.getLsbD_setWidth]
    by_cases hm : mask.getLsbD k = true
    case pos => simp [h k (BitVec.lt_of_getLsbD hm) hm]
    case neg => simp [Bool.eq_false_of_not_eq_true hm]

/-- Settles O53: the operand byte is passed, and the mask's test decides between it and the address after. -/
theorem jcaezResult : Obligations.JcaezResult := by
  unfold Obligations.JcaezResult
  intro mask n s
  refine ⟨_, exec_eq_next (.jcaez mask n) s, rfl, inc_toNat s.iar, rfl, ?taken, ?passed⟩
  case taken =>
    rintro ⟨k, hk, hm, hf⟩
    have htest : maskSelects s.flag mask = true := by
      by_contra hno
      have hclear := (maskSelects_eq_false_iff s.flag mask).mp (Bool.eq_false_of_not_eq_true hno) k hk hm
      simp [hf] at hclear
    simp [execNext, htest]
  case passed =>
    intro hall
    simp [execNext, (maskSelects_eq_false_iff s.flag mask).mpr hall]

/-- Settles O54: row 5 runs JCAEZ on the state after the fetch, its mask the low bits of the byte. -/
theorem jcaezStepBranchesOnSelectedFlags : Obligations.JcaezStepBranchesOnSelectedFlags := by
  unfold Obligations.JcaezStepBranchesOnSelectedFlags
  intro s hsafe hrow
  have hbit : ∀ k < 4, (maskField (s.mem.read s.iar)).getLsbD k = (s.mem.read s.iar).getLsbD k := fun k hk => by
    simp [maskField, hk]
  obtain ⟨t, hexec, hmar, hacc, hflag, htaken, hpassed⟩ :=
    jcaezResult (maskField (s.mem.read s.iar)) (s.mem.read (s.iar + 1)) (fetch s)
  have hstep : step s = .next t := by rw [step_running hsafe, fetchedInstr_of_row hrow]; exact hexec
  have hacc' : t.acc = s.iar + 2 := by
    rw [← inc_inc]
    exact BitVec.eq_of_toNat_eq (hacc.trans (inc_toNat (inc s.iar)).symm)
  refine ⟨t, hstep, hmar.trans (inc_eq s.iar), hacc', hflag, ?_, ?_⟩
  · rintro ⟨k, hk, hm, hf⟩
    exact htaken ⟨k, hk, (hbit k hk).trans hm, hf⟩
  · intro hall
    exact (hpassed fun k hk hm => hall k hk ((hbit k hk).symm.trans hm)).trans hacc'

/-- Settles O55: JMPR writes IAR or HALT, JUMP MAR and IAR, JCAEZ these and ACC. -/
theorem jumpsFrame : Obligations.JumpsFrame := by
  unfold Obligations.JumpsFrame
  intro i s hi
  refine ⟨_, exec_eq_next i s, ?_⟩
  obtain ⟨ra, rfl⟩ | ⟨n, rfl⟩ | ⟨mask, n, rfl⟩ := hi
  case inl => cases ra <;> simp [execNext, SameRegs, SameBytes]
  case inr.inl => simp [execNext, SameRegs, SameBytes]
  case inr.inr => simp [execNext, SameRegs, SameBytes]

/-! ## CLF and the illegal row -/

/-- Settles O56: CLF is one write of FLAG. -/
theorem clfResult : Obligations.ClfResult := by
  unfold Obligations.ClfResult
  exact fun s => ⟨s.setFlag 0, rfl, by simp [FlagIs], rfl⟩

/-- Settles O57: the illegal row raises its fault and does no more. -/
theorem illegalByteHalts : Obligations.IllegalByteHalts := exec_eq_next .illegal

/-! ## COPY -/

/-- COPY's two bytes, one for each of its instructions. -/
theorem encode_copyMacro (ra rb : Reg) :
    (copyMacro ra rb).flatMap encode = [byteOfRegs 0b1110 rb.num rb.num, byteOfRegs 0b1000 ra.num rb.num] := rfl

/-- XOR of a register with itself clears it. -/
theorem xor_self_reg (rb : Reg) (s : State) (r : Reg) :
    (aluClassNext .xor rb rb s).reg r = if r = rb then 0 else s.reg r := by
  simp [aluResult]

/-- ADD onto a cleared register copies the other operand and compares it with 0. -/
theorem add_onto_zero {ra rb : Reg} {s : State} (h : s.reg rb = 0) :
    (aluClassNext .add ra rb s).reg rb = s.reg ra ∧
      FlagIs (aluClassNext .add ra rb s).flag (s.reg ra = 0) (s.reg ra = 0) (0 < (s.reg ra).toNat) False := by
  have hlt := (s.reg ra).isLt
  have hsum : aluResult (s.reg ra) 0 false .add = s.reg ra :=
    BitVec.eq_of_toNat_eq ((aluResult_add_toNat _ _ _).trans (Nat.mod_eq_of_lt hlt))
  have hcarry : aluCarryOut (s.reg ra) 0 false .add = true ↔ False := by
    simpa [aluCarryOut] using Nat.le_of_lt_succ hlt
  have hflag := flagIs_aluClassNext .add ra rb s
  rw [h, hsum, hcarry] at hflag
  exact ⟨by rw [aluClassNext_destination ra rb s (by decide), h, hsum], hflag⟩

/-- Settles O43: the first step fetches and runs the XOR, the second, on the memory unchanged, the ADD. -/
theorem copyMacroCopies : Obligations.CopyMacroCopies := by
  unfold Obligations.CopyMacroCopies
  intro ra rb s
  refine ⟨rfl, ?bytes, fun hsafe hcode => ?run⟩
  case bytes =>
    rw [encode_copyMacro, byteOfRegs_eq_ofNat, byteOfRegs_eq_ofNat]
    rfl
  case run =>
    have hxor : fetchedInstr s = .xor rb rb := fetchedInstr_of_decode (by
      rw [hcode]
      exact decodeOfEncodeIsTheInstruction (.xor rb rb) (encode (.add ra rb)))
    have hsecond : s.mem.read (s.iar + 1) = byteOfRegs 0b1000 ra.num rb.num := by
      rw [encode_copyMacro] at hcode
      exact (List.cons.inj (List.cons.inj hcode).2).1
    have hstep : step s = .next (aluClassNext .xor rb rb (fetch s)) := step_aluClass hsafe (by rw [hxor]; rfl)
    have hreg := xor_self_reg rb (fetch s)
    have hrun : (aluClassNext .xor rb rb (fetch s)).halt = .running := (aluClassNext_halt _ _ _ _).trans hsafe
    have hiar : (aluClassNext .xor rb rb (fetch s)).iar = s.iar + 1 := (aluClassNext_iar _ _ _ _).trans (inc_eq _)
    have hmem : (aluClassNext .xor rb rb (fetch s)).mem = s.mem := aluClassNext_mem _ _ _ _
    generalize aluClassNext .xor rb rb (fetch s) = t at hstep hreg hrun hiar hmem
    have hadd : fetchedInstr t = .add ra rb := fetchedInstr_of_decode (by
      rw [hmem, hiar, hsecond]
      exact decodeOfEncodeIsTheInstruction (.add ra rb) [_])
    have hcleared : t.reg rb = 0 := (hreg rb).trans (if_pos rfl)
    obtain ⟨hcopy, hflag⟩ := add_onto_zero (ra := ra) (s := fetch t) hcleared
    rw [← hcopy] at hflag
    refine ⟨t, _, hstep, hcleared, step_aluClass hrun (by rw [hadd]; rfl), fun r hr => ?others, fun hne => ?copied,
      fun heq => ?onOne, aluClassNext_acc_eq_destination _ _ _ (by decide), hflag, ?iar, ?safe, fun a => ?bytes⟩
    case others => simp [hreg, hr]
    case copied => rw [hcopy, fetch_reg, hreg, if_neg hne, fetch_reg]
    case onOne => rw [hcopy, fetch_reg, heq, hcleared]
    case iar => simp [hiar, inc_eq, BitVec.add_assoc]
    case safe => exact (aluClassNext_halt _ _ _ _).trans hrun
    case bytes => rw [aluClassNext_mem, fetch_mem, hmem]

end Sys2Proof.Machine
end

section
/-! PROOF. The host's run (70_reset_and_hazards R143 to R150): what loading leaves in memory, and what the run loop is in
terms of the step. -/

namespace Sys2Proof.Machine

/-! ## Loading -/

/-- Storing an image from `a` on leaves the bytes below `a` and those above the image, and puts the image between. -/
theorem read_storeImage (image : List Byte) (m : Memory) (a : Nat) (ha : a + image.length ≤ 256) (x : Byte) :
    (storeImage m a image).read x = if x.toNat < a then m.read x else image.getD (x.toNat - a) (m.read x) := by
  induction image generalizing m a with
  | nil => simp [storeImage]
  | cons b rest ih =>
    rw [List.length_cons] at ha
    have hat : (BitVec.ofNat 8 a).toNat = a := (BitVec.toNat_ofNat a 8).trans (Nat.mod_eq_of_lt (by omega))
    rw [storeImage, ih _ _ (by omega)]
    rcases lt_trichotomy x.toNat a with hlt | heq | hgt
    case inl =>
      have hne : x ≠ BitVec.ofNat 8 a := fun e => by rw [e, hat] at hlt; omega
      rw [if_pos (by omega), if_pos hlt, read_write_other _ _ hne]
    case inr.inl =>
      obtain rfl : x = BitVec.ofNat 8 a := BitVec.eq_of_toNat_eq (heq.trans hat.symm)
      rw [if_pos (by omega), if_neg (by omega), read_write_same, hat, Nat.sub_self, List.getD_cons_zero]
    case inr.inr =>
      have hne : x ≠ BitVec.ofNat 8 a := fun e => by rw [e, hat] at hgt; omega
      obtain ⟨d, hd⟩ : ∃ d, x.toNat = a + 1 + d := ⟨x.toNat - (a + 1), by omega⟩
      rw [if_neg (by omega), if_neg (by omega), read_write_other _ _ hne, hd, Nat.add_sub_cancel_left,
        show a + 1 + d - a = d + 1 by omega, List.getD_cons_succ]

theorem imageWellFormed_iff (image : List Byte) : imageWellFormed image = true ↔ image.length ≤ 256 :=
  decide_eq_true_iff

/-- Settles O58: the image is stored from address 0 into the reset memory, which reads 0. -/
theorem loadedImageFillsMemory : Obligations.LoadedImageFillsMemory := by
  unfold Obligations.LoadedImageFillsMemory
  intro image
  constructor
  case left =>
    intro hlen
    refine ⟨_, if_pos ((imageWellFormed_iff image).mpr hlen), rfl, ?invariant, fun a => ?bytes⟩
    case invariant =>
      exact { resetMeetsInvariant with memoryCanonical := storeImage_keeps_wf image 0 reset_mem_wf }
    case bytes =>
      rw [setMem_mem, read_storeImage image _ 0 (by omega), if_neg (Nat.not_lt_zero _)]
      rfl
  case right =>
    intro hlen
    exact if_neg fun h => absurd ((imageWellFormed_iff image).mp h) (by omega)

/-! ## The run loop -/

/-- What the loop with this budget is, in terms of the step: `k` steps from `s`, each from a boundary where the test finds
no end, and at the last boundary the end the test finds, or none with the budget used up. -/
structure RanSteps (target budget : Nat) (s : State) (k : Nat) (r : RunResult) : Prop where
  withinBudget : k ≤ budget
  reached : stepTimes k s = .next r.state
  wentOn : ∀ (j : Nat) (u : State), j < k → stepTimes j s = .next u → boundaryEnd target u = none
  ended : r.ending = (boundaryEnd target r.state).getD .budgetExhausted
  usedUp : boundaryEnd target r.state = none → k = budget

theorem RanSteps.zero {target budget n : Nat} {s : State} {e : RunEnd}
    (he : e = (boundaryEnd target s).getD .budgetExhausted) (hused : boundaryEnd target s = none → 0 = budget) :
    RanSteps target budget s 0 { ending := e, state := s, steps := n } :=
  ⟨Nat.zero_le _, rfl, fun _ _ hj => absurd hj (Nat.not_lt_zero _), he, hused⟩

theorem RanSteps.succ {target budget k : Nat} {s t : State} {r : RunResult} (hgo : boundaryEnd target s = none)
    (hs : step s = .next t) (h : RanSteps target budget t k r) : RanSteps target (budget + 1) s (k + 1) r where
  withinBudget := Nat.succ_le_succ h.withinBudget
  reached := (stepTimes_succ hs k).trans h.reached
  wentOn j u hj hu := by
    cases j with
    | zero => cases hu; exact hgo
    | succ j => exact h.wentOn j u (Nat.lt_of_succ_lt_succ hj) ((stepTimes_succ hs j).symm.trans hu)
  ended := h.ended
  usedUp hnone := congrArg (· + 1) (h.usedUp hnone)

/-- The loop, by its turns: no running machine's step stops, so each turn is one step (log 13). -/
theorem runFrom_ranSteps (target budget n : Nat) (s : State) :
    ∃ k, (runFrom target budget n s).steps = n + k ∧ RanSteps target budget s k (runFrom target budget n s) := by
  induction budget generalizing n s with
  | zero => exact ⟨0, rfl, .zero rfl fun _ => rfl⟩
  | succ budget ih =>
    cases hend : boundaryEnd target s with
    | some e =>
      rw [runFrom_stops hend]
      exact ⟨0, rfl, .zero (by rw [hend]; rfl) fun h => by rw [hend] at h; cases h⟩
    | none =>
      have hs := step_eq_next (boundaryEnd_eq_none.mp hend).1
      obtain ⟨k, hk, hran⟩ := ih (n + 1) (execNext (fetchedInstr s) (fetch s))
      rw [runFrom_turn hend hs]
      exact ⟨k + 1, by omega, hran.succ hend hs⟩

theorem driverRun_ranSteps (target budget : Nat) (s : State) :
    RanSteps target budget s (driverRun target budget s).steps (driverRun target budget s) := by
  obtain ⟨k, hk, hran⟩ := runFrom_ranSteps target budget 0 s
  rw [Nat.zero_add] at hk
  exact hk ▸ hran

/-- The three ends, told apart by the boundary's HALT and IAR (R147, R148). -/
theorem boundary_ends (target : Nat) (s : State) :
    ((boundaryEnd target s).getD .budgetExhausted = .failed ↔ ¬ s.Safe) ∧
    ((boundaryEnd target s).getD .budgetExhausted = .targetReached ↔ s.Safe ∧ target ≤ s.iar.toNat) ∧
    ((boundaryEnd target s).getD .budgetExhausted = .budgetExhausted ↔ s.Safe ∧ s.iar.toNat < target) := by
  unfold boundaryEnd State.Safe
  split
  case isTrue h => simp [h]
  case isFalse h =>
    rw [not_not] at h
    split <;> simp [h] <;> omega

/-- Settles O60: the run's steps, and the three ends at its last boundary. -/
theorem runEndsInOneOfThreeWays : Obligations.RunEndsInOneOfThreeWays := by
  unfold Obligations.RunEndsInOneOfThreeWays
  intro target budget s
  have hran := driverRun_ranSteps target budget s
  obtain ⟨hfailed, hreached, hexhausted⟩ := boundary_ends target (driverRun target budget s).state
  rw [← hran.ended] at hfailed hreached hexhausted
  refine ⟨_, rfl, hran.withinBudget, hran.reached, fun k u hk hu => boundaryEnd_eq_none.mp (hran.wentOn k u hk hu),
    hfailed, hreached, hexhausted, fun h => hran.usedUp (boundaryEnd_eq_none.mpr (hexhausted.mp h)), ?safe⟩
  exact ⟨And.right, fun h => ⟨fun hf => hfailed.mp hf h, h⟩⟩

/-- Settles O59: a run that ended sooner would have found an end at a boundary where there is none. -/
theorem runIsStepAppliedBudgetTimes : Obligations.RunIsStepAppliedBudgetTimes := by
  unfold Obligations.RunIsStepAppliedBudgetTimes
  intro target budget s t htimes hgo
  have hran := driverRun_ranSteps target budget s
  have hall : (driverRun target budget s).steps = budget := by
    by_contra hne
    have hlt := lt_of_le_of_ne hran.withinBudget hne
    exact hne (hran.usedUp (boundaryEnd_eq_none.mpr (hgo _ _ hlt hran.reached)))
  have hlast := hran.reached
  rw [hall, htimes] at hlast
  exact ⟨(Host.Outcome.next.inj hlast).symm, hall⟩

end Sys2Proof.Machine
end
